-- ==== Sys2Proof/Word.lean ====
section
/-! DEFINITION. The two bit-vector widths of the block: bytes and 7-bit device addresses
(spec 00_scope.md R10, 92_eei_decisions.md D3, D4). -/

namespace Sys2Proof

/-- A byte: 8 bits, an unsigned value 0..255 (R10). -/
abbrev Byte := BitVec 8

/-- A device address of the I2C bus: 7 bits (R50, D4). -/
abbrev Addr := BitVec 7

end Sys2Proof
end

