-- ==== Sys2Proof/Config.lean ====
section
/-! DEFINITION. What is fixed for the block: the constants of spec 00_scope.md R7 (read-only, hardwired:
10_state.md R30), the default of the one instance parameter (R8, D5), and the free value the spec leaves
unconstrained (a constant with no body). -/

namespace Sys2Proof.Config

/-- `SRC_ADDR`, first byte of every frame (R7). -/
def srcAddr : Byte := 0x50
/-- `LEN_FLAG`, OR-ed into the length byte (R7, R88). -/
def lenFlag : Byte := 0x80
/-- `BODY_LEN`, bytes from the tag through the last parameter byte (R7, R81). -/
def bodyLen : Byte := 4
/-- `LEN_BYTE = LEN_FLAG | BODY_LEN = 0x84` (R7, R88). -/
def lenByte : Byte := lenFlag ||| bodyLen
/-- `TAG`, the fixed protocol tag, first body byte (R7, R82). -/
def tag : Byte := 0x03
/-- `FRAME_LEN`, bytes in a complete frame (R7, R80). -/
def frameLen : Nat := 7
/-- `EDID_ADDR`, 7-bit bus address of the EDID device; independent of `DDC_ADDR` (R7, D24). -/
def edidAddr : Addr := 0x50
/-- `EDID_PTR`, the one byte written before an EDID read (R7, R86). -/
def edidPtr : List Byte := [0x00]
/-- `EDID_LEN`, bytes read by `read_edid`; 8 bits (R7, R30, R173). -/
def edidLen : Byte := 130
/-- `T_SETTLE_CMD` in milliseconds (R7, R63). -/
def tSettleCmd : Nat := 500
/-- `T_SETTLE_EDID` in milliseconds (R7, R63). -/
def tSettleEdid : Nat := 150
/-- Default of the instance parameter `DDC_ADDR` (R8, D5). -/
def ddcAddrDefault : Addr := 0x37

/-- FREE VALUE (notes/assumptions/6.md): by how many milliseconds the settle timer's elapse comes later than
the interval it was started with. The spec gives a lower bound only: "any later moment is admitted" (R63).
The arguments are the number of the instance's bus handle and the draw counter of its `State`. -/
opaque settleLateness : Nat → Nat → Nat

end Sys2Proof.Config
end

