-- ==== Sys2Proof/Syntax.lean ====
section
/-! DEFINITION. The operations the host issues (spec 00_scope.md R6, 30_encoding.md R84, R98): one constructor of
`Instr` per row of opcode_table.json, and what stands at the command port. -/

namespace Sys2Proof

/-- The eight operations. Operands are the HOST LAYER's integers: the ports are 7 and 8 bits wide (R84), and a
value that does not fit a port is refused there with `InvalidParameter`, never truncated (R95, R184, D3, D4).
`Instr.wellFormed` says when every operand fits its port. -/
inductive Instr where
  /-- `build_frame dest, opcode, ap, vp` (R110): a frame, no bus access. -/
  | buildFrame (dest opcode ap vp : Nat)
  /-- `send_command dest, opcode, ap, vp, rlen` (R130). -/
  | sendCommand (dest opcode ap vp rlen : Nat)
  /-- `input_select display` (R152). -/
  | inputSelect (display : Nat)
  /-- `system_reset` (R153): resets the monitor, not the block. -/
  | systemReset
  /-- `select_language language` (R154). -/
  | selectLanguage (language : Nat)
  /-- `get_model_str` (R155). -/
  | getModelStr
  /-- `read_eeprom adh, adl` (R156). -/
  | readEeprom (adh adl : Nat)
  /-- `read_edid` (R170). -/
  | readEdid
  deriving DecidableEq, Repr

/-- The `kind` field of the command port: `BUILD`, `SEND`, `EDID` or one of the five catalog names (R84). -/
inductive PortKind where
  | build | send | edid | inputSelect | systemReset | selectLanguage | getModelStr | readEeprom
  deriving DecidableEq, Repr

/-- The command descriptor as the host presents it (R84): separate fields, no bit layout (N12). The fields
hold the host layer's integers. -/
structure Descriptor where
  kind : PortKind
  dest : Nat := 0
  opcode : Nat := 0
  addrParam : Nat := 0
  valueParam : Nat := 0
  replyLength : Nat := 0
  deriving DecidableEq, Repr

/-- What stands at the command port: a descriptor, or the same operation given as the single word that
opcode_table.json numbers (R91, D30: notation only; notes/assumptions/9.md). -/
inductive Presented where
  | fields (d : Descriptor)
  | word (nbits w : Nat)
  deriving DecidableEq, Repr

end Sys2Proof
end

