-- ==== Sys2Proof/WellFormed.lean ====
section
/-! DEFINITION. When an operation's operands fit the command port (spec 30_encoding.md R84, R95; D3, D4). -/

namespace Sys2Proof

/-- Number of values of the 7-bit `dest_addr` port (R84). -/
abbrev addrValues : Nat := 128
/-- Number of values of each 8-bit operand port (R84). -/
abbrev byteValues : Nat := 256

/-- Every operand is representable at its port: bytes are 0..255 and `dest_addr` is 0..127 (R95). -/
def Instr.wellFormed : Instr → Bool
  | .buildFrame dest opcode ap vp =>
    decide (dest < addrValues) && decide (opcode < byteValues) && decide (ap < byteValues) && decide (vp < byteValues)
  | .sendCommand dest opcode ap vp rlen =>
    decide (dest < addrValues) && decide (opcode < byteValues) && decide (ap < byteValues) && decide (vp < byteValues)
      && decide (rlen < byteValues)
  | .inputSelect display => decide (display < byteValues)
  | .systemReset => true
  | .selectLanguage language => decide (language < byteValues)
  | .getModelStr => true
  | .readEeprom adh adl => decide (adh < byteValues) && decide (adl < byteValues)
  | .readEdid => true

end Sys2Proof
end

