-- ==== Sys2Proof/Machine/Operands.lean ====
section
/-! DEFINITION. Operand assembly and the block's whole arithmetic (spec 30_encoding.md R88 to R90,
40_frame_builder.md R111 to R115, R120), the functional view of the frame, the catalog table
(42_opcode_catalog.md R150), and the host layer's range check (R95). -/

namespace Sys2Proof.Machine

/-- `fold_xor(seed, s)`: exclusive-or every byte of `s` into `seed`, in order (R12). -/
def foldXor (start : Byte) : List Byte → Byte
  | [] => start
  | b :: rest => foldXor (start ^^^ b) rest

/-- The checksum's seed `zext_8(DEST) << 1`, that is `{DEST[6:0], 0}` (R89, R112). -/
def seed (dest : Addr) : Byte := dest.setWidth 8 <<< 1

/-- Steps 1 to 3 of the builder: header `[0x50, 0x84]`, then body `[0x03, OPC, AP, VP]` (R111). -/
def preChecksum (opc ap vp : Byte) : List Byte :=
  [Config.srcAddr, Config.lenByte] ++ [Config.tag, opc, ap, vp]

/-- The checksum byte `fold_xor(DEST << 1, pre)` (R83, R113). -/
def checksum (dest : Addr) (opc ap vp : Byte) : Byte :=
  foldXor (seed dest) (preChecksum opc ap vp)

/-- The functional view of `build_frame`: the seven bytes (R114). -/
def frameBytes (dest : Addr) (opc ap vp : Byte) : List Byte :=
  preChecksum opc ap vp ++ [checksum dest opc ap vp]

/-- One row of the catalog (R150): opcode and reply length are constants of the row; a parameter byte is a
constant where the row names one (`some`) and caller-supplied where it does not (`none`). -/
structure CatalogRow where
  opcode : Nat
  addrParam : Option Nat
  valueParam : Option Nat
  replyLength : Nat
  deriving DecidableEq, Repr

/-- `input_select`: "selects active video input" (R150, R152). -/
def rowInputSelect : CatalogRow := ⟨0xF4, some 0x00, none, 0x26⟩
/-- `system_reset`: "factory-style reset" of the monitor (R150, R153). -/
def rowSystemReset : CatalogRow := ⟨0xF5, some 0x00, some 0x00, 0x10⟩
/-- `select_language`: "OSD language index"; write-only (R150, R154). -/
def rowSelectLanguage : CatalogRow := ⟨0x68, some 0x00, none, 0x00⟩
/-- `get_model_str`: "returns model string bytes" (R150, R155). -/
def rowGetModelStr : CatalogRow := ⟨0xCA, some 0x00, some 0x00, 0x26⟩
/-- `read_eeprom`: "paged EEPROM dump; caller iterates address pages externally" (R150, R156). -/
def rowReadEeprom : CatalogRow := ⟨0xE7, none, none, 0x80⟩

/-- A parameter byte of a catalog row: the row's constant, or the caller's value (R151). -/
def bindParam (fixed : Option Nat) (supplied : Nat) : Nat := fixed.getD supplied

/-- The first operand value that does not fit its port; each pair is a value and how many values its port
has (R84, R95; which operand is reported first is notes/assumptions/4.md). -/
def firstInvalid : List (Nat × Nat) → Option Nat
  | [] => none
  | (v, limit) :: rest => if v < limit then firstInvalid rest else some v

/-- The operands of an operation beside the number of values their ports have, in port order (R84). -/
def portOperands : Instr → List (Nat × Nat)
  | .buildFrame dest opcode ap vp =>
    [(dest, addrValues), (opcode, byteValues), (ap, byteValues), (vp, byteValues)]
  | .sendCommand dest opcode ap vp rlen =>
    [(dest, addrValues), (opcode, byteValues), (ap, byteValues), (vp, byteValues), (rlen, byteValues)]
  | .inputSelect display => [(display, byteValues)]
  | .systemReset => []
  | .selectLanguage language => [(language, byteValues)]
  | .getModelStr => []
  | .readEeprom adh adl => [(adh, byteValues), (adl, byteValues)]
  | .readEdid => []

/-- A host-layer value at an 8-bit operand port. Only ever applied to a value the range check passed. -/
def portByte (v : Nat) : Byte := BitVec.ofNat 8 v

/-- A host-layer value at the 7-bit `dest_addr` port. Only ever applied to a value the range check passed. -/
def portAddr (v : Nat) : Addr := BitVec.ofNat 7 v

end Sys2Proof.Machine
end

