-- ==== Sys2Proof/Decode.lean ====
section
/-! DEFINITION. The decoder and the encoder (spec 30_encoding.md). The instruction word of the block is the
command descriptor (R6, R84), which has no bit layout; opcode_table.json numbers the byte sequence an operation
writes to the bus as one word (R91, D30), and the decoder reads that word too. -/

namespace Sys2Proof

/-- Why something at the command port is no operation. -/
inductive Reject where
  /-- The word's width is none that opcode_table.json has (8 or 56 bits). -/
  | wordWidth (nbits : Nat)
  /-- The word does not fit the width it is given with. -/
  | wordOverflow (nbits w : Nat)
  /-- A byte sequence that is neither 1 nor 7 bytes long: there is one frame length (R97). -/
  | sequenceLength (n : Nat)
  /-- A one-byte sequence other than the EDID pointer `[0x00]` (R86). -/
  | pointerByte (b : Byte)
  /-- Frame byte 0 is not `0x50` (R80). -/
  | sourceAddress (b : Byte)
  /-- Frame byte 1 is not `0x84`: no other body length exists (R81, R97). -/
  | lengthByte (b : Byte)
  /-- Frame byte 2 is not `0x03` (R82). -/
  | tagByte (b : Byte)
  deriving DecidableEq, Repr

/-- One row of opcode_table.json: its `kind` and, byte by byte, the bytes its mask fixes (`some`) and the bytes it
leaves to operands and the checksum (`none`). Every mask of the table is made of whole bytes. -/
structure OpcodeRow where
  kind : PortKind
  pattern : List (Option Byte)
  deriving DecidableEq, Repr

/-- The opcode map (R91, R92). Every catalog row is a specialisation of the general frame pattern, so the
general rows stand after them; `send_command` and `build_frame` have one and the same pattern. -/
def opcodeRows : List OpcodeRow :=
  [ ⟨.inputSelect,    [some 0x50, some 0x84, some 0x03, some 0xF4, some 0x00, none, none]⟩,
    ⟨.systemReset,    [some 0x50, some 0x84, some 0x03, some 0xF5, some 0x00, some 0x00, none]⟩,
    ⟨.selectLanguage, [some 0x50, some 0x84, some 0x03, some 0x68, some 0x00, none, none]⟩,
    ⟨.getModelStr,    [some 0x50, some 0x84, some 0x03, some 0xCA, some 0x00, some 0x00, none]⟩,
    ⟨.readEeprom,     [some 0x50, some 0x84, some 0x03, some 0xE7, none, none, none]⟩,
    ⟨.send,           [some 0x50, some 0x84, some 0x03, none, none, none, none]⟩,
    ⟨.build,          [some 0x50, some 0x84, some 0x03, none, none, none, none]⟩,
    ⟨.edid,           [some 0x00]⟩ ]

/-- A byte sequence matches a row's pattern: same length, and every fixed byte is there. -/
def matchesPattern : List (Option Byte) → List Byte → Bool
  | [], [] => true
  | p :: ps, b :: bs => (p == none || p == some b) && matchesPattern ps bs
  | _, _ => false

/-- The most specific row of the opcode map that a byte sequence matches. -/
def rowOfBytes (bs : List Byte) : Option OpcodeRow :=
  opcodeRows.find? fun r => matchesPattern r.pattern bs

/-- Byte `i` of a sequence as a number. -/
def byteAt (bs : List Byte) (i : Nat) : Nat := (bs.getD i 0).toNat

/-- The operation a descriptor asks for: its kind picks the fields it uses (R84); the other fields are not
looked at. -/
def instrOfDescriptor (d : Descriptor) : Instr :=
  match d.kind with
  | .build => .buildFrame d.dest d.opcode d.addrParam d.valueParam
  | .send => .sendCommand d.dest d.opcode d.addrParam d.valueParam d.replyLength
  | .edid => .readEdid
  | .inputSelect => .inputSelect d.valueParam
  | .systemReset => .systemReset
  | .selectLanguage => .selectLanguage d.valueParam
  | .getModelStr => .getModelStr
  | .readEeprom => .readEeprom d.addrParam d.valueParam

/-- The descriptor of a row's word: frame bytes 3, 4, 5 are `opcode`, `addr_param`, `value_param` (R80). The
checksum byte is no operand and is not read (R123); `dest_addr` and `reply_length` have no bits in the word
and are 0 (notes/assumptions/9.md). -/
def descriptorOfBytes (kind : PortKind) (bs : List Byte) : Descriptor :=
  { kind := kind, opcode := byteAt bs 3, addrParam := byteAt bs 4, valueParam := byteAt bs 5 }

/-- Why a byte sequence matches no row: the first of its fixed bytes that differs. -/
def rejectBytes : List Byte → Reject
  | [b] => .pointerByte b
  | [b0, b1, b2, _, _, _, _] =>
    if b0 ≠ Config.srcAddr then .sourceAddress b0
    else if b1 ≠ Config.lenByte then .lengthByte b1
    else .tagByte b2
  | bs => .sequenceLength bs.length

/-- Decode a byte sequence that stands for an operation (R91, R92): total, rejecting by name. -/
def decodeBytes (bs : List Byte) : Except Reject Instr :=
  match rowOfBytes bs with
  | some r => .ok (instrOfDescriptor (descriptorOfBytes r.kind bs))
  | none => .error (rejectBytes bs)

/-- The `n` low bytes of a word, the most significant first: frame byte 0 in bits 55:48, byte 6 in bits 7:0
(R91). -/
def bytesOfWord : Nat → Nat → List Byte
  | 0, _ => []
  | n + 1, w => BitVec.ofNat 8 (w / 256 ^ n) :: bytesOfWord n w

/-- The word of a byte sequence, its first byte most significant (R91). -/
def wordOfBytes : List Byte → Nat
  | [] => 0
  | b :: bs => b.toNat * 256 ^ bs.length + wordOfBytes bs

/-- Decode a word of opcode_table.json: 56 bits are a frame, 8 bits the EDID pointer (R91, D30). -/
def decodeWord (nbits w : Nat) : Except Reject Instr :=
  if nbits ≠ 8 ∧ nbits ≠ 56 then .error (.wordWidth nbits)
  else if 2 ^ nbits ≤ w then .error (.wordOverflow nbits w)
  else decodeBytes (bytesOfWord (nbits / 8) w)

/-- The decoder: what stands at the command port, as an operation. -/
def decode : Presented → Except Reject Instr
  | .fields d => .ok (instrOfDescriptor d)
  | .word nbits w => decodeWord nbits w

/-- The instruction the decoder reads from a word of opcode_table.json, bits numbered as the table numbers
them. -/
def decodeTableWord (nbits w : Nat) : Option Instr :=
  match decode (.word nbits w) with
  | .ok i => some i
  | .error _ => none

/-! The encoder, from the same tables. -/

/-- The descriptor of an operation; fields its kind does not use are 0 (R84). -/
def descriptorOf : Instr → Descriptor
  | .buildFrame dest opcode ap vp =>
    { kind := .build, dest := dest, opcode := opcode, addrParam := ap, valueParam := vp }
  | .sendCommand dest opcode ap vp rlen =>
    { kind := .send, dest := dest, opcode := opcode, addrParam := ap, valueParam := vp, replyLength := rlen }
  | .inputSelect display => { kind := .inputSelect, valueParam := display }
  | .systemReset => { kind := .systemReset }
  | .selectLanguage language => { kind := .selectLanguage, valueParam := language }
  | .getModelStr => { kind := .getModelStr }
  | .readEeprom adh adl => { kind := .readEeprom, addrParam := adh, valueParam := adl }
  | .readEdid => { kind := .edid }

/-- The encoder: an operation as the host presents it. -/
def encode (i : Instr) : Presented := .fields (descriptorOf i)

/-- The byte sequence of a well-formed operation, as opcode_table.json and 95_test_vectors.md section 7 mean
it: the frame, or the one EDID pointer byte. `ddc` is the instance's `DDC_ADDR`, the destination of the
catalog commands (R92, R99). -/
def encodeBytes (ddc : Addr) : Instr → List Byte
  | .buildFrame dest opcode ap vp =>
    Machine.frameBytes (Machine.portAddr dest) (Machine.portByte opcode) (Machine.portByte ap) (Machine.portByte vp)
  | .sendCommand dest opcode ap vp _ =>
    Machine.frameBytes (Machine.portAddr dest) (Machine.portByte opcode) (Machine.portByte ap) (Machine.portByte vp)
  | .inputSelect display => Machine.frameBytes ddc 0xF4 0x00 (Machine.portByte display)
  | .systemReset => Machine.frameBytes ddc 0xF5 0x00 0x00
  | .selectLanguage language => Machine.frameBytes ddc 0x68 0x00 (Machine.portByte language)
  | .getModelStr => Machine.frameBytes ddc 0xCA 0x00 0x00
  | .readEeprom adh adl => Machine.frameBytes ddc 0xE7 (Machine.portByte adh) (Machine.portByte adl)
  | .readEdid => Config.edidPtr

/-- How many bits opcode_table.json gives an operation's row. -/
def tableBits : Instr → Nat
  | .buildFrame _ _ _ _ => 56
  | .sendCommand _ _ _ _ _ => 56
  | .inputSelect _ => 56
  | .systemReset => 56
  | .selectLanguage _ => 56
  | .getModelStr => 56
  | .readEeprom _ _ => 56
  | .readEdid => 8

/-- The word of a well-formed operation, its checksum byte computed (R91). -/
def encodeWord (ddc : Addr) (i : Instr) : Nat := wordOfBytes (encodeBytes ddc i)

/-- Operations whose every operand has bits in the table's word: the catalog commands and `read_edid`. -/
def Instr.wordHoldsOperands : Instr → Bool
  | .buildFrame _ _ _ _ => false
  | .sendCommand _ _ _ _ _ => false
  | .inputSelect _ => true
  | .systemReset => true
  | .selectLanguage _ => true
  | .getModelStr => true
  | .readEeprom _ _ => true
  | .readEdid => true

/-! Recognising a frame (R93): the block never does it; a model of the monitor does. -/

/-- `f` is a well-formed frame for destination `d` (R93). -/
def recognisesFrame (d : Addr) (f : List Byte) : Bool :=
  match f with
  | [b0, b1, b2, _, _, _, _] =>
    b0 == Config.srcAddr && b1 == Config.lenByte && b2 == Config.tag && Machine.foldXor (Machine.seed d) f == 0x00
  | _ => false

/-- The command of a frame: bytes 3, 4, 5 (R93). -/
def frameCommand (f : List Byte) : Byte × Byte × Byte := (f.getD 3 0, f.getD 4 0, f.getD 5 0)

/-! The textual form of operations and byte strings (R98, D25: notation only). -/

/-- One upper-case hexadecimal digit. -/
def hexDigit (n : Nat) : Char := ['0', '1', '2', '3', '4', '5', '6', '7', '8', '9', 'A', 'B', 'C', 'D', 'E', 'F'].getD n '?'

/-- A byte as two upper-case hexadecimal digits (D25). -/
def hexByte (n : Nat) : List Char := [hexDigit (n / 16), hexDigit (n % 16)]

/-- A byte sequence as space-separated two-digit bytes, first byte leftmost (R98). -/
def hexBytes : List Byte → List Char
  | [] => []
  | [b] => hexByte b.toNat
  | b :: bs => hexByte b.toNat ++ ' ' :: hexBytes bs

/-- Operands after an operation's name: comma-separated, `0x` before each (R98). -/
def hexOperands : List Nat → List Char
  | [] => []
  | [v] => ['0', 'x'] ++ hexByte v
  | v :: vs => ['0', 'x'] ++ hexByte v ++ [',', ' '] ++ hexOperands vs

/-- An operation's name in R98. -/
def Instr.name : Instr → List Char
  | .buildFrame _ _ _ _ => "build_frame".toList
  | .sendCommand _ _ _ _ _ => "send_command".toList
  | .inputSelect _ => "input_select".toList
  | .systemReset => "system_reset".toList
  | .selectLanguage _ => "select_language".toList
  | .getModelStr => "get_model_str".toList
  | .readEeprom _ _ => "read_eeprom".toList
  | .readEdid => "read_edid".toList

/-- An operation as R98 writes it: its name followed by its operands. -/
def Instr.text (i : Instr) : List Char :=
  let operands := (Machine.portOperands i).map Prod.fst
  if operands.isEmpty then i.name else i.name ++ ' ' :: hexOperands operands

end Sys2Proof
end

