-- ==== Sys2Proof/Machine/State.lean ====
section
/-! DEFINITION. The state of one instance of the block as plain data (spec 10_state.md), with the four ports of D2
and what the bus environment answers held as data, and the reasons a step can stop. -/

namespace Sys2Proof.Machine

/-- `KIND` (R22). -/
inductive Kind where
  | send | edid
  deriving DecidableEq, Repr

/-- `PHASE` (R27). -/
inductive Phase where
  | idle | write | settle | read
  deriving DecidableEq, Repr

/-- The bus layer's `IoError`: opaque, never inspected, carried unchanged (R56, R185, D23). The tag only tells
one value from another (notes/assumptions/5.md). -/
structure IoError where
  tag : Nat
  deriving DecidableEq, Repr

/-- The kinds of `TransportError` (R180). -/
inductive TransportKind where
  | busWriteFailed | busReadFailed
  deriving DecidableEq, Repr

/-- `RESULT` (R29). -/
inductive Result where
  | okNoValue
  | okReply (bytes : List Byte)
  | err (kind : TransportKind) (e : IoError)
  deriving DecidableEq, Repr

/-- What the bus environment answers a `BusWrite` (R53, R56). -/
inductive WriteAnswer where
  | ok
  | fail (e : IoError)
  deriving DecidableEq, Repr

/-- What `BusRead(_, n)` answers (R54, R56). `Ok(bytes)` carries its length in its type: exactly `n` bytes, so that an `Ok`
of another length cannot be written down (D10). -/
inductive ReadAnswer (n : Byte) where
  | ok (bytes : Vector Byte n.toNat)
  | fail (e : IoError)
  deriving DecidableEq, Repr

/-- What the device does with the next `BusRead` that comes, whatever its length: it fails, or it delivers bytes one after
another, as many as the longest read asks for (255: R8, R54). It is no answer yet: the answer to a read of `n` bytes is
`DeviceRead.answer n`, Machine/Ops.lean (notes/assumptions/7.md). -/
inductive DeviceRead where
  | delivers (bytes : Vector Byte 255)
  | fails (e : IoError)
  deriving DecidableEq, Repr

/-- The one access outstanding at the bus master port (D2): issued, not yet answered. -/
inductive BusRequest where
  | write (addr : Addr) (bytes : List Byte)
  | read (addr : Addr) (n : Byte)
  deriving DecidableEq, Repr

/-- An operation as the block accepts it: its kind and the operands at the 7- and 8-bit ports (R74, R84). A catalog
command is accepted as the `send` it expands to (R99). -/
inductive Operation where
  | build (dest : Addr) (opc ap vp : Byte)
  | send (dest : Addr) (opc ap vp rlen : Byte)
  | edid
  deriving DecidableEq, Repr

/-- One event of the event history (R74). `built` is the return of a `build_frame`; `invalidParameter` and
`hardReset` are the model's own entries for events that R184 and R211(c) describe. -/
inductive Event where
  | accept (op : Operation)
  | write (addr : Addr) (bytes : List Byte) (answer : WriteAnswer)
  | settleElapsed (ms : Nat)
  | read (addr : Addr) (n : Byte) (answer : ReadAnswer n)
  | ret (r : Result)
  | built (frame : List Byte)
  | invalidParameter (v : Nat)
  | hardReset
  deriving DecidableEq, Repr

/-- The bus handle `BUS`: opaque, names which bus the instance is bound to (R34). -/
structure BusHandle where
  number : Nat
  deriving DecidableEq, Repr

/-- The latches an operation writes before it reads them (R21 to R26). `none` is the spec's own "holds no value"
(R13, R31, R37): after reset and after every return each of them holds none. -/
structure Latches where
  kind : Option Kind
  dest : Option Addr
  opc : Option Byte
  ap : Option Byte
  vp : Option Byte
  rlen : Option Byte
  acc : Option Byte
  idx : Option (BitVec 3)
  frame : Vector (Option Byte) 7
  reply : Option (List Byte)
  deriving DecidableEq, Repr

/-- No latch holds a value (R31, R37). -/
def Latches.empty : Latches where
  kind := none
  dest := none
  opc := none
  ap := none
  vp := none
  rlen := none
  acc := none
  idx := none
  frame := #v[none, none, none, none, none, none, none]
  reply := none

/-- One instance of the block with its ports. -/
structure State where
  /-- `PHASE` (R27); `BUSY` is the predicate `PHASE != IDLE` (R28). -/
  phase : Phase
  /-- `KIND`, `DEST`, `OPC`, `AP`, `VP`, `RLEN`, `ACC`, `IDX`, `FRAME[0..6]`, `REPLY` (R21 to R26). -/
  latches : Latches
  /-- `RESULT`; `none` is "holds no value" (R29). -/
  result : Option Result
  /-- The bus lock (R61): held from acceptance to return. -/
  busLock : Bool
  /-- The settle timer (R197): running with this interval in milliseconds, or not running. -/
  timer : Option Nat
  /-- `DDC_ADDR`, instance parameter (R8, R30). -/
  ddcAddr : Addr
  /-- `BUS`, instance parameter (R30, R34). -/
  bus : BusHandle
  /-- Hardware reset asserted (R211(c), D8). -/
  resetLine : Bool
  /-- Command port (D2): the operations the host presents, one after another (R6); the head is at the port. -/
  host : List Presented
  /-- Bus master port (D2): the access issued and not yet answered. -/
  busReq : Option BusRequest
  /-- The bus environment: its coming answers to writes, in order; empty means it has not answered (R57, R195). -/
  writeAnswers : List WriteAnswer
  /-- The bus environment: what the device does with the coming reads, in order; empty means it has not answered (R57,
  R195). -/
  readAnswers : List DeviceRead
  /-- The frame the last `build_frame` returned to the host (R98, R110; notes/assumptions/3.md). -/
  builtFrame : Option (List Byte)
  /-- The host layer's last `InvalidParameter`, with the offending value (R181 code 3, R184). -/
  invalidParam : Option Nat
  /-- The model's own: how many free values have been drawn. -/
  draws : Nat
  /-- The event history, oldest first (R74). Nothing reads it. -/
  history : List Event
  deriving DecidableEq, Repr

/-- A latch of `Latches`, by name. -/
inductive LatchName where
  | kind | dest | opc | ap | vp | rlen | acc | idx | frame | reply
  deriving DecidableEq, Repr

/-- Why the machine stops. -/
inductive Fault where
  /-- Raised by any operation of the model that would read a latch holding no value. "If a model's rules ever
  read one, that is a fault of the model (errs toward unprovable)" (R31). Safe; no state that meets
  `Safety.BlockInv` raises it. -/
  | noValue (latch : LatchName)
  deriving DecidableEq, Repr

/-- Why an operation is not run. -/
inductive Refusal where
  /-- Raised by an arm of `exec` for an instruction that has no meaning yet. Safe. No arm raises it. -/
  | notModelled (mnemonic : String)
  /-- Raised by `exec` for an operation presented while `BUSY` (R131, U9, X1): the port does not accept it and the
  operation in progress is unaffected. Safe. `step` leaves such an operation waiting and never raises it. -/
  | notAccepted
  /-- Raised by `step` when what stands at the command port is no operation (Decode.lean). Safe. -/
  | undecodable (r : Reject)
  deriving DecidableEq, Repr

/-- The block after reset, for an instance bound to `bus` with the given `DDC_ADDR` (R37, R210, R212). -/
def State.resetWith (ddcAddr : Addr) (bus : BusHandle) : State where
  phase := .idle
  latches := .empty
  result := none
  busLock := false
  timer := none
  ddcAddr := ddcAddr
  bus := bus
  resetLine := false
  host := []
  busReq := none
  writeAnswers := []
  readAnswers := []
  builtFrame := none
  invalidParam := none
  draws := 0
  history := []

/-- The machine right after reset, with the spec's default `DDC_ADDR = 0x37` (R8, R37). -/
def State.reset : State := State.resetWith Config.ddcAddrDefault ⟨0⟩

end Sys2Proof.Machine
end

