-- ==== Sys2Proof/Machine/Flags.lean ====
section
/-! DEFINITION. What a host reads of the block besides the reply bytes: `BUSY` and the numeric code of an outcome
(spec 10_state.md R28, R29; 60_exceptions.md R181). There are no condition codes (R28). -/

namespace Sys2Proof.Machine

/-- `BUSY`: the predicate `PHASE != IDLE`, not a latch (R28). -/
def State.busy (s : State) : Bool := decide (s.phase ≠ .idle)

/-- The error kinds of R180, the host layer's among them. -/
inductive ErrorKind where
  | busWriteFailed | busReadFailed | invalidParameter
  deriving DecidableEq, Repr

/-- The numeric code of an error kind (R181). -/
def ErrorKind.code : ErrorKind → Nat
  | .busWriteFailed => 1
  | .busReadFailed => 2
  | .invalidParameter => 3

/-- A `TransportError`'s kind among the error kinds. -/
def TransportKind.errorKind : TransportKind → ErrorKind
  | .busWriteFailed => .busWriteFailed
  | .busReadFailed => .busReadFailed

/-- The numeric code of an outcome: 0 for `Ok_NoValue` and `Ok_Reply` (R181). -/
def Result.code : Result → Nat
  | .okNoValue => 0
  | .okReply _ => 0
  | .err kind _ => kind.errorKind.code

end Sys2Proof.Machine
end

