-- ==== Sys2Proof/Machine/Ops.lean ====
section
/-! DEFINITION. The shared operations over the state: reading a latch, recording an event, acceptance, the bus port,
the settle timer, return, taking an error (the block's exception, spec 60_exceptions.md R186), and hardware reset. -/

namespace Sys2Proof.Machine

/-- The three outcomes over this machine's types. -/
abbrev Out := Host.Outcome State Fault Refusal

/-- Do one operation after another: the second runs on the first's next state. -/
def andThen (o : Out) (f : State → Out) : Out :=
  match o with
  | .next s => f s
  | .fault r => .fault r
  | .refused r => .refused r

/-- Read a latch: a latch that holds no value is never read, and a model that would read one faults (R31). -/
def withValue {α : Type} (latch : LatchName) (held : Option α) (f : α → Out) : Out :=
  match held with
  | some v => f v
  | none => .fault (.noValue latch)

/-- All the values of a list of latches, where each holds one. -/
def allValues {α : Type} : List (Option α) → Option (List α)
  | [] => some []
  | none :: _ => none
  | some v :: rest => (allValues rest).map (v :: ·)

/-- The bytes of `FRAME[0..6]`, index 0 first (R24, R58). -/
def frameLatches (l : Latches) : Option (List Byte) := allValues l.frame.toList

/-- Append an event to the history (R74). -/
def State.record (e : Event) (s : State) : State := { s with history := s.history ++ [e] }

/-! ## The host layer -/

/-- `InvalidParameter` (R184, R95): raised before acceptance, no bus access made, nothing truncated. It is the host
layer's record; `RESULT` is the block's and is not written. -/
def raiseInvalid (v : Nat) (s : State) : State := ({ s with invalidParam := some v }).record (.invalidParameter v)

/-- The host layer's bounds validation before an operation is presented at the ports (R95, R184). -/
def hostLayer (operands : List (Nat × Nat)) (s : State) (present : Out) : Out :=
  match firstInvalid operands with
  | some v => .next (raiseInvalid v s)
  | none => present

/-- What stands at the command port, and the state once it is taken. -/
def fetch (s : State) : Option (Presented × State) :=
  match s.host with
  | [] => none
  | p :: rest => some (p, { s with host := rest })

/-! ## Acceptance -/

/-- An operation is accepted only when `PHASE = IDLE`; otherwise the port does not take it (R131). -/
def whenIdle (s : State) (accepted : Out) : Out :=
  if s.busy then .refused .notAccepted else accepted

/-- Acceptance of a bus operation: the latches it loads replace every former one, `RESULT` and the host-side records
of the call before lose their values, the bus lock is taken (R29, R61, R131). -/
def accept (op : Operation) (loaded : Latches) (s : State) : State :=
  ({ s with
      latches := loaded
      result := none
      builtFrame := none
      invalidParam := none
      busLock := true }).record (.accept op)

/-! ## The bus port and the settle timer -/

/-- Issue `BusWrite(addr, bytes)` and wait for its answer (R132, R171). -/
def issueWrite (addr : Addr) (bytes : List Byte) (s : State) : State :=
  { s with busReq := some (.write addr bytes), phase := .write }

/-- Issue `BusRead(addr, n)` and wait for its answer (R136, R171). -/
def issueRead (addr : Addr) (n : Byte) (s : State) : State :=
  { s with busReq := some (.read addr n), phase := .read }

/-- Start `Settle(ms)`; the bus lock stays held (R135). -/
def startSettle (ms : Nat) (s : State) : State := { s with timer := some ms, phase := .settle }

/-- The first `n` bytes of those a device delivers: exactly `n`, for no read asks for more than 255 (R54). -/
def firstBytes (n : Byte) (bytes : Vector Byte 255) : Vector Byte n.toNat :=
  ⟨(bytes.toList.take n.toNat).toArray, by have := n.isLt; simp; omega⟩

/-- What `BusRead(_, n)` answers, given what the device does with it (R54, R57; notes/assumptions/7.md). -/
def DeviceRead.answer (n : Byte) : DeviceRead → ReadAnswer n
  | .delivers bytes => .ok (firstBytes n bytes)
  | .fails e => .fail e

/-- How long a settle wait of interval `ms` lasted: at least `ms` (R63; notes/assumptions/6.md). -/
def settleDuration (ms bus draw : Nat) : Nat := ms + Config.settleLateness bus draw

/-! ## Return, error, reset -/

/-- The block between operations: `PHASE = IDLE`, no latch holds a value, the lock is free, the timer stopped, no
access outstanding (R37). -/
def State.quiesce (s : State) : State :=
  { s with phase := .idle, latches := .empty, busLock := false, timer := none, busReq := none }

/-- `return v`: `RESULT` is written, the lock released, `PHASE` becomes `IDLE`, and every other latch loses its value
(R29, R31, R37). -/
def returnWith (r : Result) (s : State) : State := ({ s.quiesce with result := some r }).record (.ret r)

/-- `raise <Kind>(e)`, the block's exception entry (R186): the operation is aborted and the error returned to the
host. Nothing is saved, no mode changes, no handler is entered, and there is no return from it (R189). -/
def raiseError (kind : TransportKind) (e : IoError) (s : State) : State := returnWith (.err kind e) s

/-- Hardware reset, at any time: the reset state at once, no `RESULT` for an interrupted operation, the lock dropped
(R37, R211(c), D8). The instance parameters stay, and so does what lies outside the block: the host's coming operations,
the environment's coming answers, the history. -/
def State.hardReset (s : State) : State :=
  ({ s.quiesce with result := none, builtFrame := none, invalidParam := none, resetLine := false }).record .hardReset

end Sys2Proof.Machine
end

