-- ==== Sys2Proof/Machine/Builder.lean ====
section
/-! DEFINITION. `build_frame` (spec 40_frame_builder.md): the byte-serial datapath over `ACC`, `IDX` and `FRAME`
(R118), and the operation alone (R110). -/

namespace Sys2Proof.Machine

/-- `start`: `ACC <- zext_8(DEST) << 1 ; IDX <- 0` (R112, R118). -/
def builderStart (s : State) : Out :=
  withValue .dest s.latches.dest fun d =>
    .next { s with latches := { s.latches with acc := some (seed d), idx := some 0 } }

/-- `FRAME[IDX] <- b ; ACC <- ACC xor b ; IDX <- IDX + 1` (R118). -/
def emitByte (i : BitVec 3) (b : Byte) (s : State) : Out :=
  withValue .acc s.latches.acc fun a =>
    .next { s with latches := { s.latches with
      frame := s.latches.frame.setIfInBounds i.toNat (some b), acc := some (a ^^^ b), idx := some (i + 1) } }

/-- One step of the byte-serial builder (R118): the six-way selector while `IDX <= 5`, the checksum when `IDX = 6`.
`IDX` never exceeds 6; no rule gives a step at 7, and the datapath holds there. -/
def builderStep (s : State) : Out :=
  withValue .idx s.latches.idx fun i =>
    match i.toNat with
    | 0 => emitByte i Config.srcAddr s
    | 1 => emitByte i Config.lenByte s
    | 2 => emitByte i Config.tag s
    | 3 => withValue .opc s.latches.opc fun b => emitByte i b s
    | 4 => withValue .ap s.latches.ap fun b => emitByte i b s
    | 5 => withValue .vp s.latches.vp fun b => emitByte i b s
    | 6 => withValue .acc s.latches.acc fun a =>
        .next { s with latches := { s.latches with frame := s.latches.frame.setIfInBounds 6 (some a) } }
    | _ => .next s

/-- `k` steps of the byte-serial builder. -/
def builderRun : Nat → State → Out
  | 0, s => .next s
  | k + 1, s => andThen (builderStep s) (builderRun k)

/-- `build_frame` over the latches: `start`, then the seven steps that leave the complete frame (R114, R118). -/
def buildFrame (s : State) : Out := andThen (builderStart s) (builderRun Config.frameLen)

/-- The latches `build_frame` alone is loaded with (R110, R114). -/
def Latches.forBuild (dest : Addr) (opc ap vp : Byte) : Latches :=
  { Latches.empty with dest := some dest, opc := some opc, ap := some ap, vp := some vp }

/-- Return the finished frame to the host (R114); the latches lose their values at the return (R31, R37). -/
def returnFrame (s : State) : Out :=
  withValue .frame (frameLatches s.latches) fun f =>
    .next (({ s with latches := .empty, builtFrame := some f }).record (.built f))

/-- `build_frame` alone, at the ports (R110): no bus access, no wait, no error; `PHASE` never leaves `IDLE` and `RESULT` is
not written (95_test_vectors.md P4). -/
def buildOnly (dest : Addr) (opc ap vp : Byte) (s : State) : Out :=
  whenIdle s <|
    andThen
      (buildFrame (({ s with
        latches := .forBuild dest opc ap vp
        builtFrame := none
        invalidParam := none }).record (.accept (.build dest opc ap vp))))
      returnFrame

/-- `build_frame dest, opcode, ap, vp` (R110, R114). -/
def execBuildFrame (dest opcode ap vp : Nat) (s : State) : Out :=
  hostLayer (portOperands (.buildFrame dest opcode ap vp)) s <|
    buildOnly (portAddr dest) (portByte opcode) (portByte ap) (portByte vp) s

end Sys2Proof.Machine
end

