-- ==== Sys2Proof/Machine/Transaction.lean ====
section
/-! DEFINITION. `send_command` (spec 41_transaction.md): acceptance, build and write (R131, R132). What follows the
write's answer is Machine/Sequencer.lean. -/

namespace Sys2Proof.Machine

/-- The latches acceptance of `send_command` loads (R131). -/
def Latches.forSend (dest : Addr) (opc ap vp rlen : Byte) : Latches :=
  { Latches.empty with
    kind := some .send, dest := some dest, opc := some opc, ap := some ap, vp := some vp, rlen := some rlen }

/-- Hand all seven bytes of `FRAME`, index 0 first, to `BusWrite` at the 7-bit address `DEST` (R24, R67, R132). -/
def issueFrame (s : State) : Out :=
  withValue .dest s.latches.dest fun d =>
    withValue .frame (frameLatches s.latches) fun f =>
      .next (issueWrite d f s)

/-- `send_command` at the ports: accept, build the frame, issue the one write (R131, R132, R139 row 1). -/
def sendCommand (dest : Addr) (opc ap vp rlen : Byte) (s : State) : Out :=
  whenIdle s <|
    andThen (buildFrame (accept (.send dest opc ap vp rlen) (.forSend dest opc ap vp rlen) s)) issueFrame

/-- `send_command dest, opcode, ap, vp, rlen` (R130). -/
def execSendCommand (dest opcode ap vp rlen : Nat) (s : State) : Out :=
  hostLayer (portOperands (.sendCommand dest opcode ap vp rlen)) s <|
    sendCommand (portAddr dest) (portByte opcode) (portByte ap) (portByte vp) (portByte rlen) s

end Sys2Proof.Machine
end

