-- ==== Sys2Proof/Machine/Catalog.lean ====
section
/-! DEFINITION. The five catalog commands (spec 42_opcode_catalog.md): each a direct parameter binding of `send_command`,
with `DDC_ADDR` as its destination (R99, R151). -/

namespace Sys2Proof.Machine

/-- The binding rule: `send_command(DDC_ADDR, op, a, v, n)` with the row's constants and the caller's bytes, and nothing
checked, converted or looked up around it (R151). -/
def catalogCommand (row : CatalogRow) (addrParam valueParam : Nat) (s : State) : Out :=
  sendCommand s.ddcAddr (portByte row.opcode) (portByte (bindParam row.addrParam addrParam))
    (portByte (bindParam row.valueParam valueParam)) (portByte row.replyLength) s

/-- `input_select display` (R152). -/
def execInputSelect (display : Nat) (s : State) : Out :=
  hostLayer (portOperands (.inputSelect display)) s (catalogCommand rowInputSelect 0 display s)

/-- `system_reset` (R153): the monitor's reset, an ordinary command to the block (R211(b)). -/
def execSystemReset (s : State) : Out :=
  hostLayer (portOperands .systemReset) s (catalogCommand rowSystemReset 0 0 s)

/-- `select_language language` (R154): write-only. -/
def execSelectLanguage (language : Nat) (s : State) : Out :=
  hostLayer (portOperands (.selectLanguage language)) s (catalogCommand rowSelectLanguage 0 language s)

/-- `get_model_str` (R155). -/
def execGetModelStr (s : State) : Out :=
  hostLayer (portOperands .getModelStr) s (catalogCommand rowGetModelStr 0 0 s)

/-- `read_eeprom adh, adl` (R156). -/
def execReadEeprom (adh adl : Nat) (s : State) : Out :=
  hostLayer (portOperands (.readEeprom adh adl)) s (catalogCommand rowReadEeprom adh adl s)

/-- The host's own loop over `read_eeprom` (R157): eight address-high values in steps of two, and for each the
address-low values `0x00` then `0x80`. It is no operation of the block. -/
def eepromDump : List Instr :=
  (List.range 8).flatMap fun k => [.readEeprom (0xA0 + 2 * k) 0x00, .readEeprom (0xA0 + 2 * k) 0x80]

end Sys2Proof.Machine
end

