-- ==== Sys2Proof/Machine/Edid.lean ====
section
/-! DEFINITION. `read_edid` (spec 43_edid_reader.md): acceptance and the one-byte pointer write (R171). What follows the
write's answer is Machine/Sequencer.lean. -/

namespace Sys2Proof.Machine

/-- The latches acceptance of `read_edid` loads: `KIND` alone (R170, R171). -/
def Latches.forEdid : Latches := { Latches.empty with kind := some .edid }

/-- `read_edid` at the ports: accept, then write `[0x00]` to `0x50`; no frame is built (R171, R172). -/
def readEdid (s : State) : Out :=
  whenIdle s (.next (issueWrite Config.edidAddr Config.edidPtr (accept .edid .forEdid s)))

/-- `read_edid` (R170). -/
def execReadEdid (s : State) : Out := hostLayer (portOperands .readEdid) s (readEdid s)

end Sys2Proof.Machine
end

