-- ==== Sys2Proof/Machine/Dispatch.lean ====
section
/-! DEFINITION. One arm per operation (spec 00_scope.md R6). -/

namespace Sys2Proof.Machine

def exec (i : Instr) (s : State) : Host.Outcome State Fault Refusal :=
  match i with
  | .buildFrame dest opcode ap vp => Sys2Proof.Machine.execBuildFrame dest opcode ap vp s
  | .sendCommand dest opcode ap vp rlen => Sys2Proof.Machine.execSendCommand dest opcode ap vp rlen s
  | .inputSelect display => Sys2Proof.Machine.execInputSelect display s
  | .systemReset => Sys2Proof.Machine.execSystemReset s
  | .selectLanguage language => Sys2Proof.Machine.execSelectLanguage language s
  | .getModelStr => Sys2Proof.Machine.execGetModelStr s
  | .readEeprom adh adl => Sys2Proof.Machine.execReadEeprom adh adl s
  | .readEdid => Sys2Proof.Machine.execReadEdid s

end Sys2Proof.Machine
end

