-- ==== Sys2Proof/Machine/CommandPort.lean ====
section
/-! DEFINITION. The command port while the block is idle (spec 41_transaction.md R131, 92_eei_decisions.md D2). -/

namespace Sys2Proof.Machine

/-- `IDLE`: accept the operation at the command port, or wait for the host (R37, R131). -/
def onIdle (s : State) : Host.Outcome State Fault Refusal :=
  match fetch s with
  | none => .next s
  | some (p, t) =>
    match decode p with
    | .ok i => exec i t
    | .error r => .refused (.undecodable r)

end Sys2Proof.Machine
end

