-- ==== Sys2Proof/Machine/Sequencer.lean ====
section
/-! DEFINITION. The sequencer in the three phases that wait for another agent (spec 41_transaction.md R133 to R139,
43_edid_reader.md R171). In each the block has no step of its own: where the awaited event has not come, the state
stays as it is (R143, R195). -/

namespace Sys2Proof.Machine

/-- The write answered `Ok`: return at once where no reply is expected, else start the settle wait of the operation's
kind (R134, R135, R171). -/
def afterWriteOk (s : State) : Out :=
  withValue .kind s.latches.kind fun k =>
    match k with
    | .send =>
      withValue .rlen s.latches.rlen fun n =>
        if n = 0 then .next (returnWith .okNoValue s) else .next (startSettle Config.tSettleCmd s)
    | .edid => .next (startSettle Config.tSettleEdid s)

/-- `WRITE`: the outstanding write is answered, or the block waits (R133 to R135). -/
def onWrite (s : State) : Out :=
  match s.busReq, s.writeAnswers with
  | some (.write a bs), ans :: rest =>
    let t := ({ s with busReq := none, writeAnswers := rest }).record (.write a bs ans)
    match ans with
    | .fail e => .next (raiseError .busWriteFailed e t)
    | .ok => afterWriteOk t
  | _, _ => .next s

/-- The settle interval has elapsed: issue the one read of the operation's kind (R136, R171). -/
def afterSettle (s : State) : Out :=
  withValue .kind s.latches.kind fun k =>
    match k with
    | .send =>
      withValue .dest s.latches.dest fun d =>
        withValue .rlen s.latches.rlen fun n => .next (issueRead d n s)
    | .edid => .next (issueRead Config.edidAddr Config.edidLen s)

/-- `SETTLE`: the running timer elapses, at least its interval after it was started (R63, R136, R197). -/
def onSettle (s : State) : Out :=
  match s.timer with
  | some ms =>
    afterSettle
      (({ s with timer := none, draws := s.draws + 1 }).record (.settleElapsed (settleDuration ms s.bus.number s.draws)))
  | none => .next s

/-- The read answered `Ok(bytes)`: `REPLY <- bytes`, return `Ok_Reply(REPLY)`, unvalidated (R137). -/
def afterReadOk (bytes : List Byte) (s : State) : Out :=
  let t := { s with latches := { s.latches with reply := some bytes } }
  withValue .reply t.latches.reply fun r => .next (returnWith (.okReply r) t)

/-- `READ`: the outstanding read is answered, or the block waits (R137, R138). -/
def onRead (s : State) : Out :=
  match s.busReq, s.readAnswers with
  | some (.read a n), r :: rest =>
    let t := ({ s with busReq := none, readAnswers := rest }).record (.read a n (r.answer n))
    match r.answer n with
    | .fail e => .next (raiseError .busReadFailed e t)
    | .ok bytes => afterReadOk bytes.toList t
  | _, _ => .next s

end Sys2Proof.Machine
end

