-- ==== Sys2Proof/Machine/Step.lean ====
section
/-! DEFINITION. One step: one event of one instance (spec 92_eei_decisions.md D1): hardware reset, acceptance of the
operation at the command port, a bus answer with what follows from it, or the settle elapse. -/

namespace Sys2Proof.Machine

/-- One event. While `PHASE != IDLE` the command port is not looked at (R131). -/
def step (s : State) : Host.Outcome State Fault Refusal :=
  if s.resetLine then .next s.hardReset
  else
    match s.phase with
    | .idle => onIdle s
    | .write => onWrite s
    | .settle => onSettle s
    | .read => onRead s

/-- Present a word of opcode_table.json at the command port so that the very next step runs it: the word stands at the
head of the host's operations, no reset is asserted, and a busy block is put back to idle (notes/assumptions/10.md). -/
def State.withFetchWord (s : State) (nbits w : Nat) : State :=
  let t := if s.busy then s.quiesce else s
  { t with resetLine := false, host := .word nbits w :: s.host }

end Sys2Proof.Machine
end

