-- ==== Sys2Proof/Machine/Instances.lean ====
section
/-! DEFINITION. Several instances side by side, one per bus, with the buses they are bound to (spec 20_memory.md R73,
60_exceptions.md R199). What a bus does with the coming accesses belongs to the bus, and an instance's step uses and consumes
it there, so that instances on one bus would meet. -/

namespace Sys2Proof.Machine

/-- A physical bus: its handle (R34) and what its environment does with the coming accesses (R57; notes/assumptions/21.md). -/
structure Bus where
  handle : BusHandle
  writeAnswers : List WriteAnswer
  readAnswers : List DeviceRead
  deriving DecidableEq, Repr

/-- Instances and the buses they are bound to. -/
structure System where
  buses : List Bus
  instances : List State
  deriving DecidableEq, Repr

/-- The bus a handle names; none where it is not there to be opened (R212). -/
def System.bus? (sys : System) (h : BusHandle) : Option Bus := sys.buses.find? fun b => b.handle == h

/-- An instance with the environment of the bus it is bound to. -/
def State.onBus (b : Bus) (s : State) : State :=
  { s with writeAnswers := b.writeAnswers, readAnswers := b.readAnswers }

/-- What is left of a bus's environment after a step of the instance bound to it. -/
def Bus.after (s : State) (b : Bus) : Bus :=
  { b with writeAnswers := s.writeAnswers, readAnswers := s.readAnswers }

/-- Instance `k` as it stands on its bus. -/
def System.view (sys : System) (k : Nat) : Option State :=
  match sys.instances[k]? with
  | none => none
  | some s => (sys.bus? s.bus).map fun b => s.onBus b

/-- Each instance owns its own handle (R73): no two instances are bound to one bus. -/
def System.oneInstancePerBus (sys : System) : Bool := decide (sys.instances.map (·.bus)).Nodup

/-- One step of an instance; one that has no next state stays as it is, and the others go on (notes/assumptions/21.md). -/
def attempt (s : State) : State :=
  match step s with
  | .next t => t
  | .fault _ => s
  | .refused _ => s

/-- `k` steps of an instance alone. -/
def attempts : Nat → State → State
  | 0, s => s
  | k + 1, s => attempts k (attempt s)

/-- Instance `k` takes a step on its bus and every other instance and bus keeps still. There is no such move where two
instances are bound to one bus: that is outside the contract (R61, R73, R215; notes/assumptions/16.md). -/
def System.stepInstance (k : Nat) (sys : System) : Option System :=
  if sys.oneInstancePerBus then
    match sys.view k with
    | none => none
    | some s =>
      let t := attempt s
      some {
        buses := sys.buses.map fun b => if b.handle == s.bus then b.after t else b
        instances := sys.instances.set k t }
  else none

/-- Run the instances in the order a schedule names them: one interleaving of their steps (R73). -/
def System.runSchedule : List Nat → System → Option System
  | [], sys => some sys
  | k :: ks, sys =>
    match sys.stepInstance k with
    | none => none
    | some sys' => System.runSchedule ks sys'

/-- Instances that start independently, each in the reset state, each with its `DDC_ADDR` and its bus (R199, R212). -/
def System.start (params : List (Addr × Bus)) : System where
  buses := params.map (·.2)
  instances := params.map fun p => State.resetWith p.1 p.2.handle

end Sys2Proof.Machine
end

