-- ==== Sys2Proof/Safety.lean ====
section
/-! DEFINITION. What counts as a safe run, in the terms the claims use: the end of an operation (spec
70_reset_and_hazards.md R225), the waiting states (R195), the invariant over the latches and ports (R20, R31, R37, R61),
and the order of events (R60, R74). -/

namespace Sys2Proof.Safety

open Sys2Proof.Machine

/-- A bus operation has ended: `PHASE = IDLE` and `RESULT` holds an outcome (R225). -/
def Ended (s : State) : Prop := s.phase = .idle ∧ s.result.isSome = true

/-- The return of an operation is there for the host to read: the outcome of a bus operation (R29), the frame of a
`build_frame`, which writes no `RESULT` (95_test_vectors.md P4; notes/assumptions/3.md), or the host layer's
`InvalidParameter` (R184; notes/assumptions/15.md). Acceptance of the next bus operation takes each of them away. -/
def Returned (s : State) : Prop :=
  s.result.isSome = true ∨ s.builtFrame.isSome = true ∨ s.invalidParam.isSome = true

/-- A host program has ended: its last operation has returned (R225). Nothing is left to present, none is in progress, and
a return is there (notes/assumptions/20.md). -/
def ProgramEnded (s : State) : Prop := s.phase = .idle ∧ s.host = [] ∧ Returned s

/-- The bus environment has not answered the access the block waits for (R143, R195): a stuck, non-final state for as
long as it lasts. -/
def BusSilent (s : State) : Prop :=
  (s.phase = .write ∧ s.writeAnswers = []) ∨ (s.phase = .read ∧ s.readAnswers = [])

/-- What the accesses of one bus operation are (R64): the address of both, the bytes written, the settle interval, the
number of bytes read (0: no read). -/
structure Plan where
  addr : Addr
  bytes : List Byte
  interval : Nat
  replyLength : Byte
  deriving DecidableEq, Repr

/-- The accesses of an operation (R64); `build_frame` makes none. -/
def planOf : Operation → Option Plan
  | .build _ _ _ _ => none
  | .send dest opc ap vp rlen => some ⟨dest, frameBytes dest opc ap vp, Config.tSettleCmd, rlen⟩
  | .edid => some ⟨Config.edidAddr, Config.edidPtr, Config.tSettleEdid, Config.edidLen⟩

/-- What the latches hold from the issue of the write to the return (R32): for `send_command` the operands and what the
builder left (`ACC` the checksum, `IDX` 6, `FRAME` the seven bytes: R119), for `read_edid` `KIND` alone (R172). -/
def latchesOf : Operation → Latches
  | .build _ _ _ _ => .empty
  | .send dest opc ap vp rlen =>
    { kind := some .send, dest := some dest, opc := some opc, ap := some ap, vp := some vp, rlen := some rlen
      acc := some (checksum dest opc ap vp), idx := some 6
      frame := #v[some Config.srcAddr, some Config.lenByte, some Config.tag, some opc, some ap, some vp,
        some (checksum dest opc ap vp)]
      reply := none }
  | .edid => .forEdid

/-- An operation with accesses `p` is in progress: its latches hold their values, the lock is held, `RESULT` holds none
(R29, R61). -/
structure InProgress (op : Operation) (p : Plan) (s : State) : Prop where
  plan : planOf op = some p
  latches : s.latches = latchesOf op
  lock : s.busLock = true
  result : s.result = none

/-- The invariant of the block. Idle: no latch holds a value, lock free, timer stopped, nothing outstanding (R37). Busy:
an operation is in progress and the bus port and the timer are where its phase says (R27, R139). -/
def BlockInv (s : State) : Prop :=
  match s.phase with
  | .idle => s.latches = .empty ∧ s.busLock = false ∧ s.timer = none ∧ s.busReq = none
  | .write => ∃ op p, InProgress op p s ∧ s.busReq = some (.write p.addr p.bytes) ∧ s.timer = none
  | .settle => ∃ op p, InProgress op p s ∧ p.replyLength ≠ 0 ∧ s.busReq = none ∧ s.timer = some p.interval
  | .read => ∃ op p, InProgress op p s ∧ p.replyLength ≠ 0 ∧ s.busReq = some (.read p.addr p.replyLength) ∧ s.timer = none

/-! ## The order of events -/

/-- Where an event history stands within an operation (R60, R74). -/
inductive Stage where
  /-- Between operations. -/
  | ready
  /-- `build_frame` accepted, its return due. -/
  | building (frame : List Byte)
  /-- A bus operation accepted, its write due. -/
  | writing (p : Plan)
  /-- The write answered `Ok` and a read is due: the settle elapse is next. -/
  | settling (p : Plan)
  /-- The settle interval elapsed: the read is next. -/
  | reading (p : Plan)
  /-- The last access is made: the return with this result is next. -/
  | returning (r : Result)
  deriving DecidableEq, Repr

/-- The result and stage a write's answer leads to (R133 to R135). -/
def Stage.afterWrite (p : Plan) : WriteAnswer → Stage
  | .fail e => .returning (.err .busWriteFailed e)
  | .ok => if p.replyLength = 0 then .returning .okNoValue else .settling p

/-- The result a read's answer leads to (R137, R138). -/
def resultOfRead {n : Byte} : ReadAnswer n → Result
  | .ok bytes => .okReply bytes.toList
  | .fail e => .err .busReadFailed e

/-- The one order R60 and R74 allow: which event may come at which stage, with which contents. The host layer's
`InvalidParameter` touches no operation; a hardware reset ends whatever is in progress. -/
def advance : Stage → Event → Option Stage
  | st, .invalidParameter _ => some st
  | _, .hardReset => some .ready
  | .ready, .accept (.build d o a v) => some (.building (frameBytes d o a v))
  | .ready, .accept op => (planOf op).map .writing
  | .building f, .built g => if g = f then some .ready else none
  | .writing p, .write a bs ans => if a = p.addr ∧ bs = p.bytes then some (.afterWrite p ans) else none
  | .settling p, .settleElapsed ms => if p.interval ≤ ms then some (.reading p) else none
  | .reading p, .read a n ans =>
    if a = p.addr ∧ n = p.replyLength then some (.returning (resultOfRead ans)) else none
  | .returning r, .ret r' => if r' = r then some .ready else none
  | _, _ => none

/-- Where a history leads; no answer where some event came out of order. -/
def replay (st : Stage) : List Event → Option Stage
  | [] => some st
  | e :: es =>
    match advance st e with
    | some st' => replay st' es
    | none => none

/-- The stage a state's history must have reached. -/
def AtStage (s : State) (st : Stage) : Prop :=
  match s.phase with
  | .idle => st = .ready
  | .write => ∃ op p, InProgress op p s ∧ st = .writing p
  | .settle => ∃ op p, InProgress op p s ∧ st = .settling p
  | .read => ∃ op p, InProgress op p s ∧ st = .reading p

/-- Every event of the history came in the order R60 and R74 give, and the history stands where the sequencer does. -/
def InOrder (s : State) : Prop := ∃ st, replay .ready s.history = some st ∧ AtStage s st

/-! ## An operation as a whole -/

/-- The operation as one piece of pseudocode (R140, R171): its result, from the answers of the bus. -/
def wholeResult (p : Plan) (w : WriteAnswer) (r : ReadAnswer p.replyLength) : Result :=
  match w with
  | .fail e => .err .busWriteFailed e
  | .ok =>
    if p.replyLength = 0 then .okNoValue
    else resultOfRead r

/-- The events of an operation from its write to its return (R74). -/
def wholeEvents (p : Plan) (w : WriteAnswer) (ms : Nat) (r : ReadAnswer p.replyLength) : List Event :=
  match w with
  | .fail _ => [.write p.addr p.bytes w, .ret (wholeResult p w r)]
  | .ok =>
    if p.replyLength = 0 then [.write p.addr p.bytes w, .ret (wholeResult p w r)]
    else [.write p.addr p.bytes w, .settleElapsed ms, .read p.addr p.replyLength r, .ret (wholeResult p w r)]

/-- How many events the block reacts to between acceptance and return (R139). -/
def wholeSteps (p : Plan) : WriteAnswer → Nat
  | .fail _ => 1
  | .ok => if p.replyLength = 0 then 1 else 3

/-- The state acceptance of a bus operation leaves (R131, R132, R139 row 1, R171): its latches loaded, its one write
issued, the lock taken, `RESULT` and the host-side records of the call before without a value, nothing else changed. -/
def acceptedState (op : Operation) (p : Plan) (s : State) : State :=
  { s with
    phase := .write
    latches := latchesOf op
    result := none
    busLock := true
    busReq := some (.write p.addr p.bytes)
    builtFrame := none
    invalidParam := none
    history := s.history ++ [.accept op] }

/-- The state the return of an operation leaves, the events `es` having been recorded (R29, R31, R37). -/
def returnedState (r : Result) (es : List Event) (s : State) : State :=
  { s with
    phase := .idle
    latches := .empty
    result := some r
    busLock := false
    timer := none
    busReq := none
    history := s.history ++ es ++ [.ret r] }

/-- `k` steps of the machine (Host/Core.lean). -/
def run (k : Nat) (s : State) : Out := Host.Core.run Sys2Proof.core k s

/-- A state without its event history, which nothing computes from (R74). -/
def forgetHistory (s : State) : State := { s with history := [] }

/-- An outcome without the event history of its state. -/
def forgetOutcome : Out → Out
  | .next s => .next (forgetHistory s)
  | .fault r => .fault r
  | .refused r => .refused r

end Sys2Proof.Safety
end

