-- ==== Sys2Proof/Certificates/Slice0/Obligations.lean ====
section
/-! DEFINITION. The statements for the provers, each with the rule of spec/ it formalises. Where a clause rests on a choice
of the model its docstring says so and names the log entry (notes/assumptions/). -/

open Sys2Proof Sys2Proof.Machine Sys2Proof.Safety

/-! ## Encodings -/

/-- The decoder gives back every operation the encoder presents at the command port, with every operand (R84; that a
descriptor is a record of fields is the spec's, the record is the model's: notes/assumptions/9.md). -/
def Obligations.DecodeOfEncodeIsTheOperation : Prop :=
  ∀ i : Instr, decode (encode i) = .ok i

/-- Decode and encode agree on the words of opcode_table.json whose every operand has bits in the word: the five catalog
commands, at every operand value and for every `DDC_ADDR`, and `read_edid` (R91, R92). -/
def Obligations.TableWordsDecodeBackToTheirOperation : Prop :=
  ∀ (ddc : Addr) (i : Instr), i.wellFormed = true → i.wordHoldsOperands = true →
    decodeTableWord (tableBits i) (encodeWord ddc i) = some i

/-- The word of a `send_command` that matches none of the five catalog rows of R92 (an opcode of the catalog with another fixed
parameter byte among them) decodes to a `send_command` with the same opcode and parameter bytes, and so does that of a
`build_frame`, which has the same row; `dest_addr` and `reply_length` have no bits there and read as 0, which is the model's
choice (R91, R94; notes/assumptions/9.md). -/
def Obligations.GenericFrameWordsKeepTheirCommand : Prop :=
  ∀ (ddc : Addr) (dest opcode ap vp rlen : Nat),
    (Instr.sendCommand dest opcode ap vp rlen).wellFormed = true →
    ¬ (opcode = 0xF4 ∧ ap = 0) → ¬ (opcode = 0xF5 ∧ ap = 0 ∧ vp = 0) → ¬ (opcode = 0x68 ∧ ap = 0) →
    ¬ (opcode = 0xCA ∧ ap = 0 ∧ vp = 0) → opcode ≠ 0xE7 →
    decodeTableWord 56 (encodeWord ddc (.sendCommand dest opcode ap vp rlen)) = some (.sendCommand 0 opcode ap vp 0) ∧
    decodeTableWord 56 (encodeWord ddc (.buildFrame dest opcode ap vp)) = some (.sendCommand 0 opcode ap vp 0)

/-- Words written out bit by bit from opcode_table.json's encodings decode to their operations (R91, R92; the checksum
bytes are those of 95_test_vectors.md K2, K9, K12, K18, E2). -/
def Obligations.WordsWrittenFromTheTableDecode : Prop :=
  decodeTableWord 56 0b01010000100001000000001111110100000000000000000101001100 = some (.inputSelect 0x01) ∧
  decodeTableWord 56 0b01010000100001000000001111110101000000000000000001001100 = some .systemReset ∧
  decodeTableWord 56 0b01010000100001000000001101101000000000000000001011010011 = some (.selectLanguage 0x02) ∧
  decodeTableWord 56 0b01010000100001000000001111001010000000000000000001110011 = some .getModelStr ∧
  decodeTableWord 56 0b01010000100001000000001111100111101000001000000001111110 = some (.readEeprom 0xA0 0x80) ∧
  decodeTableWord 8 0b00000000 = some .readEdid

/-- The decoder takes a byte sequence exactly when it is the EDID pointer or seven bytes that begin `50 84 03`: every
opcode and parameter byte is taken, nothing shorter, longer or otherwise headed is (R86, R91, R94, R96, R97). That every
checksum byte is taken, the right one (R91) or not, is the model's choice: the decoder does not read that byte, since a
host-supplied checksum is never trusted (R123; notes/assumptions/9.md). -/
def Obligations.OnlyFramesAndTheEdidPointerDecode : Prop :=
  ∀ bs : List Byte, (∃ i, decodeBytes bs = .ok i) ↔
    bs = [0x00] ∨ ∃ o a v c : Byte, bs = [0x50, 0x84, 0x03, o, a, v, c]

/-- R93: `f` is a well-formed frame for destination `d` exactly when its three leading bytes are the fixed ones and the
whole fold is zero; those are the frames `build_frame` gives for bytes 3, 4, 5, and the command is those bytes. -/
def Obligations.RecognisedFramesAreExactlyTheBuiltFrames : Prop :=
  ∀ (d : Addr) (f : List Byte),
    (recognisesFrame d f = true ↔
      f.length = 7 ∧ f[0]? = some 0x50 ∧ f[1]? = some 0x84 ∧ f[2]? = some 0x03 ∧ foldXor (d.setWidth 8 <<< 1) f = 0x00) ∧
    (recognisesFrame d f = true ↔ ∃ o a v : Byte, f = frameBytes d o a v) ∧
    (∀ o a v : Byte, frameCommand (frameBytes d o a v) = (o, a, v))

/-! ## The checksum and the frame builder -/

/-- R89: the seed is `DEST << 1` in 8 bits: bits 7:1 are the address, bit 0 is 0, nothing is shifted out, always even;
`0x37` gives `0x6E`. -/
def Obligations.SeedIsTheAddressShiftedLeftByOne : Prop :=
  (∀ d : Addr, (seed d).toNat = 2 * d.toNat ∧ (seed d).getLsbD 0 = false ∧
    ∀ k, k < 7 → (seed d).getLsbD (k + 1) = d.getLsbD k) ∧
  seed 0x37 = 0x6E

/-- R114: over latches that hold the four operands, `build_frame` writes `FRAME[0..5]` with `pre`, `FRAME[6]` with the fold
of the seed over `pre`, `ACC` with the same byte, and (R118) leaves `IDX = 6`; nothing else of the state changes and no
error is raised; the seven bytes are what it returns. With the worked example. -/
def Obligations.BuildFrameWritesTheFrameAndNothingElse : Prop :=
  (∀ (s : State) (d : Addr) (o a v : Byte),
    s.latches.dest = some d → s.latches.opc = some o → s.latches.ap = some a → s.latches.vp = some v →
    let cks := foldXor (d.setWidth 8 <<< 1) [0x50, 0x84, 0x03, o, a, v]
    ∃ t, buildFrame s = .next t ∧
      t = { s with latches := { s.latches with
              acc := some cks
              idx := some 6
              frame := #v[some 0x50, some 0x84, some 0x03, some o, some a, some v, some cks] } } ∧
      frameLatches t.latches = some [0x50, 0x84, 0x03, o, a, v, cks] ∧
      frameBytes d o a v = [0x50, 0x84, 0x03, o, a, v, cks]) ∧
  frameBytes 0x37 0xF5 0x00 0x00 = [0x50, 0x84, 0x03, 0xF5, 0x00, 0x00, 0x4C]

/-- R119, the invariant of the byte-serial view and its agreement with the functional view: after `k <= 6` steps `IDX = k`,
`FRAME[0..k-1] = pre[0..k-1]` and `ACC = fold_xor(seed, pre[0..k-1])`; the seventh step writes the checksum to `FRAME[6]`.
With `DEST = 0x37` the accumulator passes through `6E, 3E, BA, B9`, and for the document's vector through `4C, 4C, 4C`. -/
def Obligations.ByteSerialBuilderFoldsOneByteAStep : Prop :=
  (∀ (s s₀ : State) (d : Addr) (o a v : Byte),
    s.latches.dest = some d → s.latches.opc = some o → s.latches.ap = some a → s.latches.vp = some v →
    builderStart s = .next s₀ →
    (∀ k, k ≤ 6 → ∃ t, builderRun k s₀ = .next t ∧
      t.latches.idx = some (BitVec.ofNat 3 k) ∧
      t.latches.acc = some (foldXor (d.setWidth 8 <<< 1) ([0x50, 0x84, 0x03, o, a, v].take k)) ∧
      ∀ j, j < k → t.latches.frame[j]? = some ([0x50, 0x84, 0x03, o, a, v][j]?)) ∧
    (∃ t, builderRun 7 s₀ = .next t ∧ t.latches.idx = some 6 ∧ frameLatches t.latches = some (frameBytes d o a v))) ∧
  (List.range 4).map (fun k => foldXor (seed 0x37) ([0x50, 0x84, 0x03].take k)) = [0x6E, 0x3E, 0xBA, 0xB9] ∧
  (List.range 3).map (fun k => foldXor 0xB9 ([0xF5, 0x00, 0x00].take (k + 1))) = [0x4C, 0x4C, 0x4C]

/-- R115: the closed form of the checksum, and its instance for `DEST = 0x37`. -/
def Obligations.ChecksumHasItsClosedForm : Prop :=
  (0x50 ^^^ 0x84 ^^^ 0x03 : Byte) = 0xD7 ∧
  ∀ (d : Addr) (o a v : Byte),
    checksum d o a v = (d.setWidth 8 <<< 1) ^^^ 0xD7 ^^^ o ^^^ a ^^^ v ∧
    checksum 0x37 o a v = 0xB9 ^^^ o ^^^ a ^^^ v

/-- R117: xor-folding the seed over the entire frame gives `0x00`; conversely a seven-byte sequence with the three fixed
leading bytes whose whole fold is `0x00` is the frame `build_frame` gives for its bytes 3, 4, 5. -/
def Obligations.FoldOverTheWholeFrameIsZero : Prop :=
  (∀ (d : Addr) (o a v : Byte), foldXor (d.setWidth 8 <<< 1) (frameBytes d o a v) = 0x00) ∧
  (∀ (d : Addr) (o a v c : Byte), foldXor (d.setWidth 8 <<< 1) [0x50, 0x84, 0x03, o, a, v, c] = 0x00 →
    [0x50, 0x84, 0x03, o, a, v, c] = frameBytes d o a v)

/-- R124 (b) to (g): the checksum takes every value; equal parameters cancel; swapping the parameters keeps it; flipping
bits of an operand flips the same bits of it; two destinations that differ in bit `j` give checksums that differ in bit
`j + 1`, and bit 0 does not depend on the destination; the seeds of the ends of the address range. -/
def Obligations.ChecksumBitLaws : Prop :=
  ∀ (d e : Addr) (o a v x : Byte),
    (∀ c : Byte, ∃ o', checksum d o' a v = c) ∧
    checksum d o a a = checksum d o 0x00 0x00 ∧
    checksum d o a v = checksum d o v a ∧
    checksum d (o ^^^ x) a v = checksum d o a v ^^^ x ∧
    checksum d o (a ^^^ x) v = checksum d o a v ^^^ x ∧
    checksum d o a (v ^^^ x) = checksum d o a v ^^^ x ∧
    (∀ j, j < 7 → (checksum d o a v ^^^ checksum e o a v).getLsbD (j + 1) = (d ^^^ e).getLsbD j) ∧
    (checksum d o a v).getLsbD 0 = (checksum e o a v).getLsbD 0 ∧
    seed 0x00 = 0x00 ∧ seed 0x7F = 0xFE

/-! ## Acceptance: what each operation does when it is issued -/

/-- `build_frame` issued to an idle block returns its frame to the host at once: `PHASE` stays `IDLE`, `RESULT` is not
written, no bus access is made, no latch keeps a value (R110, R114, R31; 95_test_vectors.md P4). Where the frame is shown to
the host (`builtFrame`) and the two events are the model's choice (notes/assumptions/3.md), and so is that the host layer's
former record `invalidParam` is cleared (notes/assumptions/15.md). -/
def Obligations.BuildFrameReturnsItsFrame : Prop :=
  ∀ (s : State) (dest opcode ap vp : Nat), s.phase = .idle → (Instr.buildFrame dest opcode ap vp).wellFormed = true →
    let d : Addr := BitVec.ofNat 7 dest
    let o : Byte := BitVec.ofNat 8 opcode
    let a : Byte := BitVec.ofNat 8 ap
    let v : Byte := BitVec.ofNat 8 vp
    let f : List Byte := [0x50, 0x84, 0x03, o, a, v, foldXor (d.setWidth 8 <<< 1) [0x50, 0x84, 0x03, o, a, v]]
    exec (.buildFrame dest opcode ap vp) s =
      .next { s with
        latches := .empty
        builtFrame := some f
        invalidParam := none
        history := s.history ++ [.accept (.build d o a v), .built f] }

/-- R131 and R132: `send_command` issued to an idle block latches its five operands and `KIND`, clears `RESULT`, takes the
bus lock, builds the frame and issues exactly one `BusWrite` of those seven bytes to the 7-bit address `DEST`, and waits in
`WRITE`. While `PHASE != IDLE` no operation is accepted; that `exec` then answers a refusal is the model's choice of R131's two
ways, waits or is refused (notes/assumptions/12.md). That acceptance clears the host-side records `builtFrame` and
`invalidParam` is the model's choice (notes/assumptions/3.md, 15.md). Nothing else changes. -/
def Obligations.SendCommandAcceptsBuildsAndWrites : Prop :=
  (∀ (s : State) (dest opcode ap vp rlen : Nat), s.phase = .idle →
    (Instr.sendCommand dest opcode ap vp rlen).wellFormed = true →
    let d : Addr := BitVec.ofNat 7 dest
    let o : Byte := BitVec.ofNat 8 opcode
    let a : Byte := BitVec.ofNat 8 ap
    let v : Byte := BitVec.ofNat 8 vp
    let n : Byte := BitVec.ofNat 8 rlen
    let cks := foldXor (d.setWidth 8 <<< 1) [0x50, 0x84, 0x03, o, a, v]
    exec (.sendCommand dest opcode ap vp rlen) s =
      .next { s with
        phase := .write
        latches :=
          { kind := some .send, dest := some d, opc := some o, ap := some a, vp := some v, rlen := some n
            acc := some cks, idx := some 6
            frame := #v[some 0x50, some 0x84, some 0x03, some o, some a, some v, some cks]
            reply := none }
        result := none
        busLock := true
        busReq := some (.write d [0x50, 0x84, 0x03, o, a, v, cks])
        builtFrame := none
        invalidParam := none
        history := s.history ++ [.accept (.send d o a v n)] }) ∧
  (∀ (s : State) (i : Instr), s.phase ≠ .idle → i.wellFormed = true → exec i s = .refused .notAccepted)

/-- R152 to R156, acceptance: each catalog command issued to an idle block is accepted as the `send_command` its row
binds, to `DDC_ADDR`, with its frame on the bus (`acceptedState`, Safety.lean). That acceptance clears the host-side records
`builtFrame` and `invalidParam` is the model's choice (notes/assumptions/3.md, 15.md); that its event is the `send`'s is
notes/assumptions/14.md. Nothing else changes. -/
def Obligations.CatalogCommandsWriteTheirFrames : Prop :=
  ∀ (s : State) (display language adh adl : Nat), s.phase = .idle →
    display < 256 → language < 256 → adh < 256 → adl < 256 →
    let d := s.ddcAddr
    let send (o a v n : Byte) : Out :=
      .next (acceptedState (.send d o a v n)
        ⟨d, [0x50, 0x84, 0x03, o, a, v, foldXor (d.setWidth 8 <<< 1) [0x50, 0x84, 0x03, o, a, v]], 500, n⟩ s)
    exec (.inputSelect display) s = send 0xF4 0x00 (BitVec.ofNat 8 display) 0x26 ∧
    exec .systemReset s = send 0xF5 0x00 0x00 0x10 ∧
    exec (.selectLanguage language) s = send 0x68 0x00 (BitVec.ofNat 8 language) 0x00 ∧
    exec .getModelStr s = send 0xCA 0x00 0x00 0x26 ∧
    exec (.readEeprom adh adl) s = send 0xE7 (BitVec.ofNat 8 adh) (BitVec.ofNat 8 adl) 0x80

/-- R151 and R99: in every state and at every operand value each catalog command is the `send_command` with its row's
values and `DDC_ADDR`; nothing is checked, converted or added around it, and its result and errors pass through. -/
def Obligations.CatalogCommandsAreDirectBindings : Prop :=
  ∀ (s : State) (display language adh adl : Nat),
    exec (.inputSelect display) s = exec (.sendCommand s.ddcAddr.toNat 0xF4 0x00 display 0x26) s ∧
    exec .systemReset s = exec (.sendCommand s.ddcAddr.toNat 0xF5 0x00 0x00 0x10) s ∧
    exec (.selectLanguage language) s = exec (.sendCommand s.ddcAddr.toNat 0x68 0x00 language 0x00) s ∧
    exec .getModelStr s = exec (.sendCommand s.ddcAddr.toNat 0xCA 0x00 0x00 0x26) s ∧
    exec (.readEeprom adh adl) s = exec (.sendCommand s.ddcAddr.toNat 0xE7 adh adl 0x80) s

/-- The checksum bytes R152 to R156 give for `DDC_ADDR = 0x37`. -/
def Obligations.CatalogChecksumsForTheDefaultAddress : Prop :=
  (∀ display : Byte, checksum 0x37 0xF4 0x00 display = 0x4D ^^^ display) ∧
  checksum 0x37 0xF5 0x00 0x00 = 0x4C ∧
  (∀ language : Byte, checksum 0x37 0x68 0x00 language = 0xD1 ^^^ language) ∧
  checksum 0x37 0xCA 0x00 0x00 = 0x73 ∧
  (∀ adh adl : Byte, checksum 0x37 0xE7 adh adl = 0x5E ^^^ adh ^^^ adl)

/-- `read_edid` issued to an idle block writes the single byte `0x00` to address `0x50`, whatever `DDC_ADDR` is; `KIND` is the
only latch that holds a value: no frame is built (R170 to R172, D24). That acceptance clears the host-side records `builtFrame`
and `invalidParam` is the model's choice (notes/assumptions/3.md, 15.md). -/
def Obligations.ReadEdidWritesThePointer : Prop :=
  ∀ s : State, s.phase = .idle →
    exec .readEdid s =
      .next { s with
        phase := .write
        latches := { Latches.empty with kind := some .edid }
        result := none
        busLock := true
        busReq := some (.write 0x50 [0x00])
        builtFrame := none
        invalidParam := none
        history := s.history ++ [.accept .edid] }

/-- An operand that does not fit its port raises `InvalidParameter` before acceptance, with an offending value, and no bus
access: nothing but the host layer's record changes (R95, R184, D3, D4). Which of several offending values is recorded, that
the record is kept in `invalidParam` and raised in a busy block too, and that it is an event of the history are the model's
choices (notes/assumptions/4.md, 15.md, 14.md). -/
def Obligations.OutOfRangeOperandsRaiseInvalidParameter : Prop :=
  ∀ (s : State) (i : Instr), i.wellFormed = false →
    ∃ v limit, (v, limit) ∈ portOperands i ∧ limit ≤ v ∧
      exec i s = .next { s with invalidParam := some v, history := s.history ++ [.invalidParameter v] }

/-! ## One step -/

/-- A step of an idle block runs the operation at the command port: it is `exec` of the decoded operation on the state from
which the operation has been taken (R84, R131). That what is no operation is refused by name is the model's choice
(notes/assumptions/9.md), and so is what `withFetchWord` stands for, the word that the very next step runs
(notes/assumptions/10.md). -/
def Obligations.IdleStepRunsTheDecodedOperation : Prop :=
  (∀ (s : State) (p : Presented) (rest : List Presented) (i : Instr),
    s.resetLine = false → s.phase = .idle → s.host = p :: rest → decode p = .ok i →
      step s = exec i { s with host := rest }) ∧
  (∀ (s : State) (p : Presented) (rest : List Presented) (r : Reject),
    s.resetLine = false → s.phase = .idle → s.host = p :: rest → decode p = .error r →
      step s = .refused (.undecodable r)) ∧
  (∀ (s : State) (nbits w : Nat) (i : Instr), s.phase = .idle → decodeTableWord nbits w = some i →
      step (s.withFetchWord nbits w) = exec i { s with resetLine := false })

/-- R143, R195: where the bus does not answer, the block stays in `WRITE` or `READ` for ever with the lock held: after any
number of steps it is where it was, and the operation has not ended. -/
def Obligations.SilentBusHangsTheBlock : Prop :=
  ∀ (s : State) (k : Nat), BlockInv s → s.resetLine = false → BusSilent s →
    run k s = .next s ∧ s.busLock = true ∧ ¬ Ended s

/-- While the block is `BUSY` the command port is not looked at: what the host presents neither changes the operation in
progress nor is taken (R71, R131). That it waits at the port is the model's choice of R131's two ways, waits or is refused
(notes/assumptions/12.md). -/
def Obligations.HostIsNotHeardWhileBusy : Prop :=
  ∀ (s : State) (h : List Presented), s.phase ≠ .idle → s.resetLine = false →
    (∀ t, step s = .next t → t.host = s.host ∧ step { s with host := h } = .next { t with host := h })

/-- R133: a failed write returns `BusWriteFailed` with the bus's own error, whatever `RLEN` is and for both kinds: no settle
wait, no read, no second write; lock released, `PHASE` `IDLE`. -/
def Obligations.FailedWriteReturnsBusWriteFailed : Prop :=
  ∀ (s : State) (e : IoError) (rest : List WriteAnswer),
    BlockInv s → s.resetLine = false → s.phase = .write → s.writeAnswers = .fail e :: rest →
    ∃ a bs, s.busReq = some (.write a bs) ∧
      step s = .next (returnedState (.err .busWriteFailed e) [.write a bs (.fail e)] { s with writeAnswers := rest })

/-- R134: a write that succeeds with `RLEN = 0` returns `Ok_NoValue` at once: no settle wait, no read, `REPLY` not written. -/
def Obligations.AcceptedWriteWithoutReplyReturnsAtOnce : Prop :=
  ∀ (s : State) (rest : List WriteAnswer),
    BlockInv s → s.resetLine = false → s.phase = .write → s.writeAnswers = .ok :: rest →
    s.latches.kind = some .send → s.latches.rlen = some 0 →
    ∃ a bs, s.busReq = some (.write a bs) ∧
      step s = .next (returnedState .okNoValue [.write a bs .ok] { s with writeAnswers := rest })

/-- R135: a write that succeeds with `RLEN != 0` starts the 500 ms settle wait, the bus lock still held; nothing is read
yet. -/
def Obligations.AcceptedWriteWithReplyStartsTheSettleWait : Prop :=
  ∀ (s : State) (n : Byte) (rest : List WriteAnswer),
    BlockInv s → s.resetLine = false → s.phase = .write → s.writeAnswers = .ok :: rest →
    s.latches.kind = some .send → s.latches.rlen = some n → n ≠ 0 →
    ∃ a bs, s.busReq = some (.write a bs) ∧ s.busLock = true ∧
      step s = .next { s with
        phase := .settle, timer := some 500, busReq := none, writeAnswers := rest
        history := s.history ++ [.write a bs .ok] }

/-- R136: when the settle interval elapses, at least 500 ms after the write's `Ok`, the block issues exactly one read of
`RLEN` bytes from the address it wrote to, `DEST`. The wait's length beyond 500 ms is a free value
(notes/assumptions/6.md); the statement holds for every one. -/
def Obligations.SettleElapseIssuesTheOneRead : Prop :=
  ∀ (s : State), BlockInv s → s.resetLine = false → s.phase = .settle → s.latches.kind = some .send →
    ∃ d n ms, s.latches.dest = some d ∧ s.latches.rlen = some n ∧ s.timer = some 500 ∧ 500 ≤ ms ∧
      step s = .next { s with
        phase := .read, timer := none, busReq := some (.read d n), draws := s.draws + 1
        history := s.history ++ [.settleElapsed ms] }

/-- R137: a read that succeeds returns its bytes, unvalidated: the `RLEN` bytes of the bus's `Ok(bytes)`, whatever they are, are
`RESULT`, in order. (Where the model keeps the bus's coming answers: notes/assumptions/7.md, 11.md; that every answer is
possible is `EveryAnswerOfTheBusIsAdmitted`.) -/
def Obligations.SuccessfulReadReturnsTheRawReply : Prop :=
  ∀ (s : State) (n : Byte) (bytes : Vector Byte n.toNat) (r : DeviceRead) (rest : List DeviceRead),
    BlockInv s → s.resetLine = false → s.phase = .read → s.readAnswers = r :: rest → r.answer n = .ok bytes →
    s.latches.kind = some .send → s.latches.rlen = some n →
    ∃ d, s.latches.dest = some d ∧ s.busReq = some (.read d n) ∧
      step s = .next (returnedState (.okReply bytes.toList) [.read d n (.ok bytes)] { s with readAnswers := rest })

/-- R138: a failed read returns `BusReadFailed` with the bus's own error, for both kinds; neither access is repeated and no
reply byte is returned. -/
def Obligations.FailedReadReturnsBusReadFailed : Prop :=
  ∀ (s : State) (e : IoError) (rest : List DeviceRead),
    BlockInv s → s.resetLine = false → s.phase = .read → s.readAnswers = .fails e :: rest →
    ∃ a n, s.busReq = some (.read a n) ∧
      step s = .next (returnedState (.err .busReadFailed e) [.read a n (.fail e)] { s with readAnswers := rest })

/-- R57: what the bus environment answers is unconstrained. To the write outstanding the model admits `Ok` and `Fail(e)` for
every `e`; to the read outstanding, of `n` bytes, `Fail(e)` for every `e` and `Ok(bytes)` for every sequence of `n` bytes, and
by its type no other (R54, D10). -/
def Obligations.EveryAnswerOfTheBusIsAdmitted : Prop :=
  ∀ s : State, BlockInv s → s.resetLine = false →
    (∀ (a : Addr) (bs : List Byte) (w : WriteAnswer), s.busReq = some (.write a bs) →
      ∃ t, step { s with writeAnswers := [w] } = .next t ∧ Event.write a bs w ∈ t.history ∧ t.writeAnswers = []) ∧
    (∀ (a : Addr) (n : Byte) (ans : ReadAnswer n), s.busReq = some (.read a n) →
      ∃ r : DeviceRead, step { s with readAnswers := [r] } =
        .next (returnedState (resultOfRead ans) [.read a n ans] { s with readAnswers := [] }))

/-- R171, the steps of `read_edid` after its acceptance: the accepted write starts the 150 ms wait (a read is always due), the
elapse issues one read of 130 bytes from `0x50`, and the read's 130 bytes are returned unvalidated (R173; where the model keeps
the bus's coming answers: notes/assumptions/7.md). -/
def Obligations.EdidReaderWaitsThenReads130Bytes : Prop :=
  ∀ (s : State), BlockInv s → s.resetLine = false → s.latches.kind = some .edid →
    (∀ rest, s.phase = .write → s.writeAnswers = .ok :: rest →
      s.busReq = some (.write 0x50 [0x00]) ∧
      step s = .next { s with
        phase := .settle, timer := some 150, busReq := none, writeAnswers := rest
        history := s.history ++ [.write 0x50 [0x00] .ok] }) ∧
    (s.phase = .settle → ∃ ms, 150 ≤ ms ∧
      step s = .next { s with
        phase := .read, timer := none, busReq := some (.read 0x50 130), draws := s.draws + 1
        history := s.history ++ [.settleElapsed ms] }) ∧
    (∀ (r : DeviceRead) (rest : List DeviceRead) (bytes : Vector Byte 130), s.phase = .read → s.readAnswers = r :: rest →
      r.answer 130 = .ok bytes →
      step s = .next (returnedState (.okReply bytes.toList) [.read 0x50 130 (.ok bytes)] { s with readAnswers := rest }))

/-- R139: a step that changes `PHASE` is one of the rows of the transition table, for both kinds: no other transition exists
(a hardware reset apart). -/
def Obligations.PhaseChangesOnlyByTheTransitionTable : Prop :=
  ∀ s t : State, BlockInv s → s.resetLine = false → step s = .next t → t.phase ≠ s.phase →
    (s.phase = .idle ∧ t.phase = .write ∧ s.host ≠ [] ∧ ∃ a bs, t.busReq = some (.write a bs)) ∨
    (s.phase = .write ∧ t.phase = .idle ∧ ∃ e rest, s.writeAnswers = .fail e :: rest ∧
      t.result = some (.err .busWriteFailed e)) ∨
    (s.phase = .write ∧ t.phase = .idle ∧ s.latches.rlen = some 0 ∧ (∃ rest, s.writeAnswers = .ok :: rest) ∧
      t.result = some .okNoValue) ∨
    (s.phase = .write ∧ t.phase = .settle ∧ s.latches.rlen ≠ some 0 ∧ ∃ rest, s.writeAnswers = .ok :: rest) ∨
    (s.phase = .settle ∧ t.phase = .read ∧ ∃ a n, t.busReq = some (.read a n)) ∨
    (s.phase = .read ∧ t.phase = .idle ∧ ∃ e rest, s.readAnswers = .fails e :: rest ∧
      t.result = some (.err .busReadFailed e)) ∨
    (s.phase = .read ∧ t.phase = .idle ∧ ∃ supply rest n, s.readAnswers = .delivers supply :: rest ∧
      t.result = some (.okReply (firstBytes n supply).toList) ∧ ∃ a, s.busReq = some (.read a n))

/-- R29: `RESULT` changes only when an operation is accepted (it loses its value) and when one returns (it is written). -/
def Obligations.ResultChangesOnlyAtAcceptanceAndReturn : Prop :=
  ∀ s t : State, s.resetLine = false → step s = .next t →
    t.result = s.result ∨
    (s.phase = .idle ∧ t.phase = .write ∧ t.result = none) ∨
    (s.phase ≠ .idle ∧ t.phase = .idle ∧ t.result.isSome = true)

/-! ## Errors -/

/-- R186, entry: `raise <Kind>(e)` writes `RESULT`, releases the lock and makes the block idle, in one step; nothing is
saved, and (R31, R37) every other latch loses its value. Nothing else of the state changes but the event history. -/
def Obligations.RaisedErrorEndsTheOperation : Prop :=
  ∀ (s : State) (k : TransportKind) (e : IoError),
    raiseError k e s = { s with
      result := some (.err k e), busLock := false, phase := .idle
      latches := .empty, timer := none, busReq := none
      history := s.history ++ [.ret (.err k e)] }

/-- The numeric codes of R181. They are the spec's own decision (D7), not the source's. -/
def Obligations.OutcomeCodesAreThoseOfTheTable : Prop :=
  Result.okNoValue.code = 0 ∧ (∀ bs, (Result.okReply bs).code = 0) ∧
  (∀ e, (Result.err .busWriteFailed e).code = 1) ∧ (∀ e, (Result.err .busReadFailed e).code = 2) ∧
  ErrorKind.invalidParameter.code = 3

/-! ## An operation as a whole -/

/-- R140: from an idle block, with the bus answering `w` to the write and, only where a read is due, `r` to the read,
`send_command` runs as the one piece of pseudocode: it returns `BusWriteFailed(e)`, `Ok_NoValue`, `BusReadFailed(e)` or the
reply; it makes the write to `dest` and, only where it is due, waits at least 500 ms and reads `rlen` bytes from `dest`, in that
order; it ends idle with no latch holding a value. Where no read is due nothing is asked of the read environment, which may be
silent. With the worked example's frame. How the bus's coming answers are kept, and what a read takes of them, is the model's
choice (notes/assumptions/7.md, 11.md). -/
def Obligations.SendCommandRunsAsItsPseudocode : Prop :=
  (∀ (s : State) (dest opcode ap vp rlen : Nat) (w : WriteAnswer) (ws : List WriteAnswer) (r : DeviceRead)
    (rs : List DeviceRead),
    s.phase = .idle → s.resetLine = false → (Instr.sendCommand dest opcode ap vp rlen).wellFormed = true →
    s.writeAnswers = w :: ws → (w = .ok → rlen ≠ 0 → s.readAnswers = r :: rs) →
    let d : Addr := BitVec.ofNat 7 dest
    let o : Byte := BitVec.ofNat 8 opcode
    let a : Byte := BitVec.ofNat 8 ap
    let v : Byte := BitVec.ofNat 8 vp
    let n : Byte := BitVec.ofNat 8 rlen
    let p : Plan := ⟨d, frameBytes d o a v, 500, n⟩
    ∃ t u ms, exec (.sendCommand dest opcode ap vp rlen) s = .next t ∧ 500 ≤ ms ∧
      run (wholeSteps p w) t = .next u ∧
      u.phase = .idle ∧ u.result = some (wholeResult p w (r.answer n)) ∧
      u.latches = .empty ∧ u.busLock = false ∧ u.busReq = none ∧ u.timer = none ∧
      u.host = s.host ∧ u.writeAnswers = ws ∧
      u.readAnswers = (if w = .ok ∧ rlen ≠ 0 then rs else s.readAnswers) ∧
      u.history = s.history ++ [.accept (.send d o a v n)] ++ wholeEvents p w ms (r.answer n)) ∧
  frameBytes 0x37 0xCA 0x00 0x00 = [0x50, 0x84, 0x03, 0xCA, 0x00, 0x00, 0x73]

/-- `read_edid` as a whole (R170, R171, R173, R174): the one-byte write to `0x50` and, if it succeeded, a wait of at least
150 ms and a read of 130 bytes from `0x50`; it never returns `Ok_NoValue`. After a failed write nothing is asked of the read
environment, which may be silent. How the bus's coming answers are kept, and what a read takes of them, is the model's choice
(notes/assumptions/7.md, 11.md). -/
def Obligations.ReadEdidRunsAsItsPseudocode : Prop :=
  ∀ (s : State) (w : WriteAnswer) (ws : List WriteAnswer) (r : DeviceRead) (rs : List DeviceRead),
    s.phase = .idle → s.resetLine = false → s.writeAnswers = w :: ws → (w = .ok → s.readAnswers = r :: rs) →
    let p : Plan := ⟨0x50, [0x00], 150, 130⟩
    ∃ t u ms, exec .readEdid s = .next t ∧ 150 ≤ ms ∧
      run (wholeSteps p w) t = .next u ∧
      u.phase = .idle ∧ u.result = some (wholeResult p w (r.answer 130)) ∧
      wholeResult p w (r.answer 130) ≠ .okNoValue ∧
      u.latches = .empty ∧ u.busLock = false ∧ u.busReq = none ∧ u.timer = none ∧
      u.host = s.host ∧ u.writeAnswers = ws ∧
      u.readAnswers = (if w = .ok then rs else s.readAnswers) ∧
      u.history = s.history ++ [.accept .edid] ++ wholeEvents p w ms (r.answer 130)

/-- R154: `select_language` ends with the write's answer: no settle wait, no read; it can never return `BusReadFailed`. The
bus's answers to reads are not even looked at. -/
def Obligations.SelectLanguageNeverReads : Prop :=
  ∀ (s : State) (language : Nat) (w : WriteAnswer) (ws : List WriteAnswer),
    s.phase = .idle → s.resetLine = false → language < 256 → s.writeAnswers = w :: ws →
    ∃ t u, exec (.selectLanguage language) s = .next t ∧ run 1 t = .next u ∧ u.phase = .idle ∧
      u.readAnswers = s.readAnswers ∧
      (w = .ok → u.result = some .okNoValue) ∧
      (∀ e, w = .fail e → u.result = some (.err .busWriteFailed e)) ∧
      (∀ e, u.result ≠ some (.err .busReadFailed e)) ∧
      (∀ a n ans, Event.read a n ans ∈ u.history → Event.read a n ans ∈ s.history)

/-! ## Reset and invariants -/

/-- R37: the reset state of an instance, the hard-wired constants of R30 with their values; after reset the block waits in
`IDLE` for the host; and the same table describes the block at the return of every bus operation, except that `RESULT` then
holds that operation's outcome (a `build_frame`'s return is `BuildFrameReturnsItsFrame`). (That `State.reset` is the instance
with `DDC_ADDR = 0x37` is the model's choice, the spec's default D5: notes/assumptions/2.md.) -/
def Obligations.ResetStateIsTheTable : Prop :=
  (∀ (ddc : Addr) (b : BusHandle),
    let s := State.resetWith ddc b
    s.phase = .idle ∧ s.busy = false ∧ s.latches = .empty ∧ s.result = none ∧ s.ddcAddr = ddc ∧ s.bus = b ∧
      s.busLock = false ∧ s.timer = none ∧ step s = .next s) ∧
  State.reset.ddcAddr = 0x37 ∧
  (Latches.empty.kind = none ∧ Latches.empty.dest = none ∧ Latches.empty.opc = none ∧ Latches.empty.ap = none ∧
    Latches.empty.vp = none ∧ Latches.empty.rlen = none ∧ Latches.empty.acc = none ∧ Latches.empty.idx = none ∧
    (∀ j, j < 7 → Latches.empty.frame[j]? = some none) ∧ Latches.empty.reply = none) ∧
  (Config.srcAddr = 0x50 ∧ Config.lenByte = 0x84 ∧ Config.tag = 0x03 ∧ Config.edidAddr = 0x50 ∧ Config.edidLen = 130 ∧
    Config.tSettleCmd = 500 ∧ Config.tSettleEdid = 150 ∧
    [rowInputSelect, rowSystemReset, rowSelectLanguage, rowGetModelStr, rowReadEeprom] =
      [⟨0xF4, some 0x00, none, 0x26⟩, ⟨0xF5, some 0x00, some 0x00, 0x10⟩, ⟨0x68, some 0x00, none, 0x00⟩,
        ⟨0xCA, some 0x00, some 0x00, 0x26⟩, ⟨0xE7, none, none, 0x80⟩]) ∧
  (∀ (s : State) (r : Result),
    let t := returnWith r s
    t.phase = .idle ∧ t.busy = false ∧ t.latches = .empty ∧ t.result = some r ∧ t.ddcAddr = s.ddcAddr ∧ t.bus = s.bus ∧
      t.busLock = false ∧ t.timer = none)

/-- The invariant and the order of events hold at reset, for every instance. -/
def Obligations.ResetMeetsTheInvariants : Prop :=
  ∀ (ddc : Addr) (b : BusHandle), BlockInv (State.resetWith ddc b) ∧ InOrder (State.resetWith ddc b)

/-- Every step keeps the invariant `BlockInv` (R20, R27, R29, R31, R37, R61): idle, no latch holds a value and the lock is free;
busy, the latches hold exactly the operation in progress, and the bus port and the timer are where the phase says. -/
def Obligations.EveryStepKeepsTheInvariant : Prop :=
  ∀ s t : State, BlockInv s → step s = .next t → BlockInv t

/-- Every step keeps the order of events of R60 and R74: accept; one write of the operation's own bytes to its own address;
the settle elapse, at least the interval after, only if that write succeeded and a read is due; one read of the asked length
from the same address; the return, with the result the answers give; no retry, no read after a failed write, no read before the
settle wait, no reply beside an error (R133, R134, R136, R144). Two more events may come, both the model's own entries: the host
layer's `invalidParameter` at any stage, which leaves the stage as it is (notes/assumptions/14.md, 15.md), and a `hardReset`,
which ends any stage (notes/assumptions/13.md). A `build_frame` is its acceptance and its return (notes/assumptions/3.md). -/
def Obligations.EveryStepKeepsTheOrderOfEvents : Prop :=
  ∀ s t : State, BlockInv s → InOrder s → step s = .next t → InOrder t

/-- In a state that meets the invariant no step reads a latch that holds no value (R31), and none stops for any other reason
than that what the host presents is no operation. -/
def Obligations.NoStepReadsALatchWithoutAValue : Prop :=
  ∀ s : State, BlockInv s →
    (∃ t, step s = .next t) ∨
    (s.phase = .idle ∧ ∃ p rest r, s.host = p :: rest ∧ decode p = .error r ∧ step s = .refused (.undecodable r))

/-- What the invariant says of the bus port and the lock: the lock is held exactly while `BUSY` (R61); a write is seven bytes,
or the one pointer byte to `0x50` (R53, R64); a read is of 1 to 255 bytes, never of none (R54, R134). -/
def Obligations.BusRequestsHaveTheContractsShape : Prop :=
  ∀ s : State, BlockInv s →
    s.busLock = s.busy ∧
    (∀ a bs, s.busReq = some (.write a bs) → s.phase = .write ∧ (bs.length = 7 ∨ (a = 0x50 ∧ bs = [0x00]))) ∧
    (∀ a n, s.busReq = some (.read a n) → s.phase = .read ∧ 1 ≤ n.toNat ∧ n.toNat ≤ 255)

/-- A hardware reset, at any time, forces the reset state at once with no `RESULT`, the lock dropped; the instance parameters
and what lies outside the block stay (R37, R211 (c), D8: an optional step, which the model offers). -/
def Obligations.HardwareResetForcesTheResetState : Prop :=
  ∀ s : State, s.resetLine = true →
    step s = .next { State.resetWith s.ddcAddr s.bus with
      host := s.host, writeAnswers := s.writeAnswers, readAnswers := s.readAnswers, draws := s.draws
      history := s.history ++ [.hardReset] }

/-- The instance parameters `DDC_ADDR` and `BUS` are fixed: no step changes them (R30). -/
def Obligations.InstanceParametersNeverChange : Prop :=
  ∀ s t : State, step s = .next t → t.ddcAddr = s.ddcAddr ∧ t.bus = s.bus

/-! ## No state survives a call; nothing computes from the history; instances share nothing -/

/-- The event history is an output: a step does the same whatever it holds (no operation computes from what went before, R20),
and it only grows (R74). That it grows through a hardware reset too, which does not erase it, is the model's choice
(notes/assumptions/13.md, 14.md). -/
def Obligations.HistoryIsNeverReadAndOnlyGrows : Prop :=
  (∀ s : State, forgetOutcome (step (forgetHistory s)) = forgetOutcome (step s)) ∧
  (∀ s t : State, step s = .next t → ∃ es, t.history = s.history ++ es)

/-- R20, R190: the outcome of an operation is a function of its operands, the constants with `DDC_ADDR`, and what the
environment does during it. Two idle blocks that agree on those and differ in anything an earlier operation left (its result,
its error, its frame, its history) run the same operation, and everything after it, in the same way. `build_frame` returns the
same frame in both; it does not write `RESULT`, so that alone may still differ after it. That the host-side records
`builtFrame` and `invalidParam` agree after acceptance, which clears them, is the model's choice (notes/assumptions/3.md,
15.md). -/
def Obligations.NoOperationDependsOnAnEarlierOne : Prop :=
  ∀ (s s' : State) (i : Instr), BlockInv s → BlockInv s' → s.phase = .idle → s'.phase = .idle → i.wellFormed = true →
    s.ddcAddr = s'.ddcAddr → s.bus = s'.bus → s.resetLine = s'.resetLine → s.host = s'.host →
    s.writeAnswers = s'.writeAnswers → s.readAnswers = s'.readAnswers → s.draws = s'.draws →
    ∃ t t', exec i s = .next t ∧ exec i s' = .next t' ∧
      ((∀ dest opcode ap vp, i ≠ .buildFrame dest opcode ap vp) →
        forgetHistory t = forgetHistory t' ∧ ∀ k, forgetOutcome (run k t) = forgetOutcome (run k t')) ∧
      ((∃ dest opcode ap vp, i = .buildFrame dest opcode ap vp) →
        forgetHistory { t with result := none } = forgetHistory { t' with result := none } ∧
        t.builtFrame.isSome = true ∧ t.result = s.result ∧ t'.result = s'.result)

/-- R73, R199: independent instances, one per bus. Whatever interleaving of their steps a schedule gives, each instance ends, on
its own bus, as it would alone with that bus for the number of steps the schedule gives it; and where its run alone goes through,
that run's end is where it ends. Every instance on a bus can move. Where two instances are bound to one bus there is no move at
all: R73 puts that outside the contract, and the model gives it none (R61, R215, D22; notes/assumptions/16.md). That an instance
without a next state keeps still while the others go on is the model's choice (notes/assumptions/21.md). -/
def Obligations.InstancesDoNotInterfere : Prop :=
  (∀ (schedule : List Nat) (sys sys' : System), sys.oneInstancePerBus = true →
    System.runSchedule schedule sys = some sys' →
    ∀ (j : Nat) (s : State), sys.view j = some s →
      sys'.view j = some (attempts (schedule.count j) s) ∧
      ∀ t, run (schedule.count j) s = .next t → sys'.view j = some t) ∧
  (∀ (sys : System) (k : Nat) (s : State), sys.oneInstancePerBus = true → sys.view k = some s →
    ∃ sys', sys.stepInstance k = some sys') ∧
  (∀ (sys : System) (i j : Nat) (s t : State), i ≠ j → sys.instances[i]? = some s → sys.instances[j]? = some t →
    s.bus = t.bus → ∀ k, sys.stepInstance k = none)

/-! ## The end of a program -/

/-- R225: a host program ends when its last operation returns. No state in `WRITE`, `SETTLE` or `READ`, and none with an operation
still to present, is an end; a step of a block of the invariant that reaches an end from a state that is none is the return of
the last operation (a bus operation's with its `RESULT`, a `build_frame`'s with its frame, or the host layer's
`InvalidParameter`), and after it nothing happens. That the latter two count as returns of operations is the model's reading
(notes/assumptions/20.md). -/
def Obligations.ProgramEndsWithItsLastReturn : Prop :=
  (∀ s : State, ProgramEnded s → s.busy = false ∧ s.host = []) ∧
  (∀ s t : State, BlockInv s → s.resetLine = false → step s = .next t → ¬ ProgramEnded s → ProgramEnded t →
    (s.phase ≠ .idle ∧ s.host = [] ∧ Ended t ∧ ∃ r, t.result = some r ∧ t.history.getLast? = some (.ret r)) ∨
    (s.phase = .idle ∧ (∃ p, s.host = [p]) ∧ ∃ f, t.builtFrame = some f ∧ t.history.getLast? = some (.built f)) ∨
    (s.phase = .idle ∧ (∃ p, s.host = [p]) ∧
      ∃ v, t.invalidParam = some v ∧ t.history.getLast? = some (.invalidParameter v))) ∧
  (∀ s : State, ProgramEnded s → s.resetLine = false → ∀ k, run k s = .next s)

/-! ## No instruction and no run stops with a fault -/

/-- R31: every operation writes a latch before it reads it. So no instruction, in any state at all, within the invariant or not,
ends in the fault for reading a latch that holds no value: it answers a next state, or, well-formed and issued to a busy block,
the port's refusal (R131; the refusal is the model's choice of that rule's two ways, notes/assumptions/12.md). And no run from a
state of the invariant ends in a fault, however long, whatever the host presents and the bus answers. -/
def Obligations.NoInstructionAndNoRunEndsInAFault : Prop :=
  (∀ (i : Instr) (s : State), (∃ t, exec i s = .next t) ∨
    (s.phase ≠ .idle ∧ i.wellFormed = true ∧ exec i s = .refused .notAccepted)) ∧
  (∀ (s : State) (k : Nat) (f : Fault), BlockInv s → run k s ≠ .fault f)
end

