-- ==== Sys2Proof/Laws/Operands.lean ====
section
/-! SUPPORT. The laws of the block's arithmetic (spec 40_frame_builder.md R115, R117, R120) and of the host layer's range
check (R95). -/

namespace Sys2Proof.Machine

@[simp] theorem foldXor_nil (a : Byte) : foldXor a [] = a := rfl

@[simp] theorem foldXor_cons (a b : Byte) (bs : List Byte) : foldXor a (b :: bs) = foldXor (a ^^^ b) bs := rfl

/-- The second equation of R12: `fold_xor(seed, s ++ [b]) = fold_xor(seed, s) xor b`. -/
theorem foldXor_append_one (a b : Byte) (bs : List Byte) : foldXor a (bs ++ [b]) = foldXor a bs ^^^ b := by
  induction bs generalizing a with
  | nil => rfl
  | cons c cs ih => simp [ih]

theorem foldXor_append (a : Byte) (xs ys : List Byte) : foldXor a (xs ++ ys) = foldXor (foldXor a xs) ys := by
  induction xs generalizing a with
  | nil => rfl
  | cons c cs ih => simp [ih]

theorem preChecksum_eq (opc ap vp : Byte) :
    preChecksum opc ap vp = [Config.srcAddr, Config.lenByte, Config.tag, opc, ap, vp] := rfl

theorem frameBytes_eq (d : Addr) (opc ap vp : Byte) :
    frameBytes d opc ap vp =
      [Config.srcAddr, Config.lenByte, Config.tag, opc, ap, vp, checksum d opc ap vp] := rfl

@[simp] theorem frameBytes_length (d : Addr) (opc ap vp : Byte) : (frameBytes d opc ap vp).length = 7 := rfl

/-- The range check passes exactly on operands that all fit. -/
theorem firstInvalid_none_iff (ops : List (Nat × Nat)) : firstInvalid ops = none ↔ ∀ p ∈ ops, p.1 < p.2 := by
  induction ops with
  | nil => simp [firstInvalid]
  | cons p ps ih => by_cases h : p.1 < p.2 <;> simp [firstInvalid, h, ih]

/-- What the range check reports is the value of an operand that does not fit. -/
theorem firstInvalid_some {ops : List (Nat × Nat)} {v : Nat} (h : firstInvalid ops = some v) :
    ∃ limit, (v, limit) ∈ ops ∧ limit ≤ v := by
  induction ops with
  | nil => simp [firstInvalid] at h
  | cons p ps ih =>
    by_cases hp : p.1 < p.2
    · obtain ⟨l, hl, hv⟩ := ih (by simpa [firstInvalid, hp] using h)
      exact ⟨l, List.mem_cons_of_mem _ hl, hv⟩
    · have : p.1 = v := by simpa [firstInvalid, hp] using h
      exact ⟨p.2, by simp [← this], by omega⟩

/-- `Instr.wellFormed` is the host layer's range check. -/
theorem wellFormed_iff_firstInvalid (i : Instr) : i.wellFormed = true ↔ firstInvalid (portOperands i) = none := by
  rw [firstInvalid_none_iff]
  cases i <;> simp [Instr.wellFormed, portOperands, and_assoc]

end Sys2Proof.Machine
end

