-- ==== Sys2Proof/Laws/State.lean ====
section
/-! SUPPORT. One lemma per field of `State` per shared update, each true by `rfl`, so that no proof unfolds a record
update. -/

namespace Sys2Proof.Machine

section
variable (s : State)

@[simp] theorem State.record_phase (e : Event) : (s.record e).phase = s.phase := rfl
@[simp] theorem State.record_latches (e : Event) : (s.record e).latches = s.latches := rfl
@[simp] theorem State.record_result (e : Event) : (s.record e).result = s.result := rfl
@[simp] theorem State.record_busLock (e : Event) : (s.record e).busLock = s.busLock := rfl
@[simp] theorem State.record_timer (e : Event) : (s.record e).timer = s.timer := rfl
@[simp] theorem State.record_ddcAddr (e : Event) : (s.record e).ddcAddr = s.ddcAddr := rfl
@[simp] theorem State.record_bus (e : Event) : (s.record e).bus = s.bus := rfl
@[simp] theorem State.record_resetLine (e : Event) : (s.record e).resetLine = s.resetLine := rfl
@[simp] theorem State.record_host (e : Event) : (s.record e).host = s.host := rfl
@[simp] theorem State.record_busReq (e : Event) : (s.record e).busReq = s.busReq := rfl
@[simp] theorem State.record_writeAnswers (e : Event) : (s.record e).writeAnswers = s.writeAnswers := rfl
@[simp] theorem State.record_readAnswers (e : Event) : (s.record e).readAnswers = s.readAnswers := rfl
@[simp] theorem State.record_builtFrame (e : Event) : (s.record e).builtFrame = s.builtFrame := rfl
@[simp] theorem State.record_invalidParam (e : Event) : (s.record e).invalidParam = s.invalidParam := rfl
@[simp] theorem State.record_draws (e : Event) : (s.record e).draws = s.draws := rfl
@[simp] theorem State.record_history (e : Event) : (s.record e).history = s.history ++ [e] := rfl

@[simp] theorem raiseInvalid_phase (v : Nat) : (raiseInvalid v s).phase = s.phase := rfl
@[simp] theorem raiseInvalid_latches (v : Nat) : (raiseInvalid v s).latches = s.latches := rfl
@[simp] theorem raiseInvalid_result (v : Nat) : (raiseInvalid v s).result = s.result := rfl
@[simp] theorem raiseInvalid_busLock (v : Nat) : (raiseInvalid v s).busLock = s.busLock := rfl
@[simp] theorem raiseInvalid_timer (v : Nat) : (raiseInvalid v s).timer = s.timer := rfl
@[simp] theorem raiseInvalid_ddcAddr (v : Nat) : (raiseInvalid v s).ddcAddr = s.ddcAddr := rfl
@[simp] theorem raiseInvalid_bus (v : Nat) : (raiseInvalid v s).bus = s.bus := rfl
@[simp] theorem raiseInvalid_resetLine (v : Nat) : (raiseInvalid v s).resetLine = s.resetLine := rfl
@[simp] theorem raiseInvalid_host (v : Nat) : (raiseInvalid v s).host = s.host := rfl
@[simp] theorem raiseInvalid_busReq (v : Nat) : (raiseInvalid v s).busReq = s.busReq := rfl
@[simp] theorem raiseInvalid_writeAnswers (v : Nat) : (raiseInvalid v s).writeAnswers = s.writeAnswers := rfl
@[simp] theorem raiseInvalid_readAnswers (v : Nat) : (raiseInvalid v s).readAnswers = s.readAnswers := rfl
@[simp] theorem raiseInvalid_builtFrame (v : Nat) : (raiseInvalid v s).builtFrame = s.builtFrame := rfl
@[simp] theorem raiseInvalid_invalidParam (v : Nat) : (raiseInvalid v s).invalidParam = some v := rfl
@[simp] theorem raiseInvalid_draws (v : Nat) : (raiseInvalid v s).draws = s.draws := rfl
@[simp] theorem raiseInvalid_history (v : Nat) : (raiseInvalid v s).history = s.history ++ [.invalidParameter v] := rfl

@[simp] theorem accept_phase (op : Operation) (l : Latches) : (accept op l s).phase = s.phase := rfl
@[simp] theorem accept_latches (op : Operation) (l : Latches) : (accept op l s).latches = l := rfl
@[simp] theorem accept_result (op : Operation) (l : Latches) : (accept op l s).result = none := rfl
@[simp] theorem accept_busLock (op : Operation) (l : Latches) : (accept op l s).busLock = true := rfl
@[simp] theorem accept_timer (op : Operation) (l : Latches) : (accept op l s).timer = s.timer := rfl
@[simp] theorem accept_ddcAddr (op : Operation) (l : Latches) : (accept op l s).ddcAddr = s.ddcAddr := rfl
@[simp] theorem accept_bus (op : Operation) (l : Latches) : (accept op l s).bus = s.bus := rfl
@[simp] theorem accept_resetLine (op : Operation) (l : Latches) : (accept op l s).resetLine = s.resetLine := rfl
@[simp] theorem accept_host (op : Operation) (l : Latches) : (accept op l s).host = s.host := rfl
@[simp] theorem accept_busReq (op : Operation) (l : Latches) : (accept op l s).busReq = s.busReq := rfl
@[simp] theorem accept_writeAnswers (op : Operation) (l : Latches) : (accept op l s).writeAnswers = s.writeAnswers := rfl
@[simp] theorem accept_readAnswers (op : Operation) (l : Latches) : (accept op l s).readAnswers = s.readAnswers := rfl
@[simp] theorem accept_builtFrame (op : Operation) (l : Latches) : (accept op l s).builtFrame = none := rfl
@[simp] theorem accept_invalidParam (op : Operation) (l : Latches) : (accept op l s).invalidParam = none := rfl
@[simp] theorem accept_draws (op : Operation) (l : Latches) : (accept op l s).draws = s.draws := rfl
@[simp] theorem accept_history (op : Operation) (l : Latches) : (accept op l s).history = s.history ++ [.accept op] := rfl

@[simp] theorem issueWrite_phase (a : Addr) (bs : List Byte) : (issueWrite a bs s).phase = .write := rfl
@[simp] theorem issueWrite_latches (a : Addr) (bs : List Byte) : (issueWrite a bs s).latches = s.latches := rfl
@[simp] theorem issueWrite_result (a : Addr) (bs : List Byte) : (issueWrite a bs s).result = s.result := rfl
@[simp] theorem issueWrite_busLock (a : Addr) (bs : List Byte) : (issueWrite a bs s).busLock = s.busLock := rfl
@[simp] theorem issueWrite_timer (a : Addr) (bs : List Byte) : (issueWrite a bs s).timer = s.timer := rfl
@[simp] theorem issueWrite_ddcAddr (a : Addr) (bs : List Byte) : (issueWrite a bs s).ddcAddr = s.ddcAddr := rfl
@[simp] theorem issueWrite_bus (a : Addr) (bs : List Byte) : (issueWrite a bs s).bus = s.bus := rfl
@[simp] theorem issueWrite_resetLine (a : Addr) (bs : List Byte) : (issueWrite a bs s).resetLine = s.resetLine := rfl
@[simp] theorem issueWrite_host (a : Addr) (bs : List Byte) : (issueWrite a bs s).host = s.host := rfl
@[simp] theorem issueWrite_busReq (a : Addr) (bs : List Byte) : (issueWrite a bs s).busReq = some (.write a bs) := rfl
@[simp] theorem issueWrite_writeAnswers (a : Addr) (bs : List Byte) : (issueWrite a bs s).writeAnswers = s.writeAnswers := rfl
@[simp] theorem issueWrite_readAnswers (a : Addr) (bs : List Byte) : (issueWrite a bs s).readAnswers = s.readAnswers := rfl
@[simp] theorem issueWrite_builtFrame (a : Addr) (bs : List Byte) : (issueWrite a bs s).builtFrame = s.builtFrame := rfl
@[simp] theorem issueWrite_invalidParam (a : Addr) (bs : List Byte) : (issueWrite a bs s).invalidParam = s.invalidParam := rfl
@[simp] theorem issueWrite_draws (a : Addr) (bs : List Byte) : (issueWrite a bs s).draws = s.draws := rfl
@[simp] theorem issueWrite_history (a : Addr) (bs : List Byte) : (issueWrite a bs s).history = s.history := rfl

@[simp] theorem issueRead_phase (a : Addr) (n : Byte) : (issueRead a n s).phase = .read := rfl
@[simp] theorem issueRead_latches (a : Addr) (n : Byte) : (issueRead a n s).latches = s.latches := rfl
@[simp] theorem issueRead_result (a : Addr) (n : Byte) : (issueRead a n s).result = s.result := rfl
@[simp] theorem issueRead_busLock (a : Addr) (n : Byte) : (issueRead a n s).busLock = s.busLock := rfl
@[simp] theorem issueRead_timer (a : Addr) (n : Byte) : (issueRead a n s).timer = s.timer := rfl
@[simp] theorem issueRead_ddcAddr (a : Addr) (n : Byte) : (issueRead a n s).ddcAddr = s.ddcAddr := rfl
@[simp] theorem issueRead_bus (a : Addr) (n : Byte) : (issueRead a n s).bus = s.bus := rfl
@[simp] theorem issueRead_resetLine (a : Addr) (n : Byte) : (issueRead a n s).resetLine = s.resetLine := rfl
@[simp] theorem issueRead_host (a : Addr) (n : Byte) : (issueRead a n s).host = s.host := rfl
@[simp] theorem issueRead_busReq (a : Addr) (n : Byte) : (issueRead a n s).busReq = some (.read a n) := rfl
@[simp] theorem issueRead_writeAnswers (a : Addr) (n : Byte) : (issueRead a n s).writeAnswers = s.writeAnswers := rfl
@[simp] theorem issueRead_readAnswers (a : Addr) (n : Byte) : (issueRead a n s).readAnswers = s.readAnswers := rfl
@[simp] theorem issueRead_builtFrame (a : Addr) (n : Byte) : (issueRead a n s).builtFrame = s.builtFrame := rfl
@[simp] theorem issueRead_invalidParam (a : Addr) (n : Byte) : (issueRead a n s).invalidParam = s.invalidParam := rfl
@[simp] theorem issueRead_draws (a : Addr) (n : Byte) : (issueRead a n s).draws = s.draws := rfl
@[simp] theorem issueRead_history (a : Addr) (n : Byte) : (issueRead a n s).history = s.history := rfl

@[simp] theorem startSettle_phase (ms : Nat) : (startSettle ms s).phase = .settle := rfl
@[simp] theorem startSettle_latches (ms : Nat) : (startSettle ms s).latches = s.latches := rfl
@[simp] theorem startSettle_result (ms : Nat) : (startSettle ms s).result = s.result := rfl
@[simp] theorem startSettle_busLock (ms : Nat) : (startSettle ms s).busLock = s.busLock := rfl
@[simp] theorem startSettle_timer (ms : Nat) : (startSettle ms s).timer = some ms := rfl
@[simp] theorem startSettle_ddcAddr (ms : Nat) : (startSettle ms s).ddcAddr = s.ddcAddr := rfl
@[simp] theorem startSettle_bus (ms : Nat) : (startSettle ms s).bus = s.bus := rfl
@[simp] theorem startSettle_resetLine (ms : Nat) : (startSettle ms s).resetLine = s.resetLine := rfl
@[simp] theorem startSettle_host (ms : Nat) : (startSettle ms s).host = s.host := rfl
@[simp] theorem startSettle_busReq (ms : Nat) : (startSettle ms s).busReq = s.busReq := rfl
@[simp] theorem startSettle_writeAnswers (ms : Nat) : (startSettle ms s).writeAnswers = s.writeAnswers := rfl
@[simp] theorem startSettle_readAnswers (ms : Nat) : (startSettle ms s).readAnswers = s.readAnswers := rfl
@[simp] theorem startSettle_builtFrame (ms : Nat) : (startSettle ms s).builtFrame = s.builtFrame := rfl
@[simp] theorem startSettle_invalidParam (ms : Nat) : (startSettle ms s).invalidParam = s.invalidParam := rfl
@[simp] theorem startSettle_draws (ms : Nat) : (startSettle ms s).draws = s.draws := rfl
@[simp] theorem startSettle_history (ms : Nat) : (startSettle ms s).history = s.history := rfl

@[simp] theorem State.quiesce_phase : s.quiesce.phase = .idle := rfl
@[simp] theorem State.quiesce_latches : s.quiesce.latches = .empty := rfl
@[simp] theorem State.quiesce_result : s.quiesce.result = s.result := rfl
@[simp] theorem State.quiesce_busLock : s.quiesce.busLock = false := rfl
@[simp] theorem State.quiesce_timer : s.quiesce.timer = none := rfl
@[simp] theorem State.quiesce_ddcAddr : s.quiesce.ddcAddr = s.ddcAddr := rfl
@[simp] theorem State.quiesce_bus : s.quiesce.bus = s.bus := rfl
@[simp] theorem State.quiesce_resetLine : s.quiesce.resetLine = s.resetLine := rfl
@[simp] theorem State.quiesce_host : s.quiesce.host = s.host := rfl
@[simp] theorem State.quiesce_busReq : s.quiesce.busReq = none := rfl
@[simp] theorem State.quiesce_writeAnswers : s.quiesce.writeAnswers = s.writeAnswers := rfl
@[simp] theorem State.quiesce_readAnswers : s.quiesce.readAnswers = s.readAnswers := rfl
@[simp] theorem State.quiesce_builtFrame : s.quiesce.builtFrame = s.builtFrame := rfl
@[simp] theorem State.quiesce_invalidParam : s.quiesce.invalidParam = s.invalidParam := rfl
@[simp] theorem State.quiesce_draws : s.quiesce.draws = s.draws := rfl
@[simp] theorem State.quiesce_history : s.quiesce.history = s.history := rfl

@[simp] theorem returnWith_phase (r : Result) : (returnWith r s).phase = .idle := rfl
@[simp] theorem returnWith_latches (r : Result) : (returnWith r s).latches = .empty := rfl
@[simp] theorem returnWith_result (r : Result) : (returnWith r s).result = some r := rfl
@[simp] theorem returnWith_busLock (r : Result) : (returnWith r s).busLock = false := rfl
@[simp] theorem returnWith_timer (r : Result) : (returnWith r s).timer = none := rfl
@[simp] theorem returnWith_ddcAddr (r : Result) : (returnWith r s).ddcAddr = s.ddcAddr := rfl
@[simp] theorem returnWith_bus (r : Result) : (returnWith r s).bus = s.bus := rfl
@[simp] theorem returnWith_resetLine (r : Result) : (returnWith r s).resetLine = s.resetLine := rfl
@[simp] theorem returnWith_host (r : Result) : (returnWith r s).host = s.host := rfl
@[simp] theorem returnWith_busReq (r : Result) : (returnWith r s).busReq = none := rfl
@[simp] theorem returnWith_writeAnswers (r : Result) : (returnWith r s).writeAnswers = s.writeAnswers := rfl
@[simp] theorem returnWith_readAnswers (r : Result) : (returnWith r s).readAnswers = s.readAnswers := rfl
@[simp] theorem returnWith_builtFrame (r : Result) : (returnWith r s).builtFrame = s.builtFrame := rfl
@[simp] theorem returnWith_invalidParam (r : Result) : (returnWith r s).invalidParam = s.invalidParam := rfl
@[simp] theorem returnWith_draws (r : Result) : (returnWith r s).draws = s.draws := rfl
@[simp] theorem returnWith_history (r : Result) : (returnWith r s).history = s.history ++ [.ret r] := rfl

@[simp] theorem raiseError_phase (k : TransportKind) (e : IoError) : (raiseError k e s).phase = .idle := rfl
@[simp] theorem raiseError_latches (k : TransportKind) (e : IoError) : (raiseError k e s).latches = .empty := rfl
@[simp] theorem raiseError_result (k : TransportKind) (e : IoError) : (raiseError k e s).result = some (.err k e) := rfl
@[simp] theorem raiseError_busLock (k : TransportKind) (e : IoError) : (raiseError k e s).busLock = false := rfl
@[simp] theorem raiseError_timer (k : TransportKind) (e : IoError) : (raiseError k e s).timer = none := rfl
@[simp] theorem raiseError_ddcAddr (k : TransportKind) (e : IoError) : (raiseError k e s).ddcAddr = s.ddcAddr := rfl
@[simp] theorem raiseError_bus (k : TransportKind) (e : IoError) : (raiseError k e s).bus = s.bus := rfl
@[simp] theorem raiseError_resetLine (k : TransportKind) (e : IoError) : (raiseError k e s).resetLine = s.resetLine := rfl
@[simp] theorem raiseError_host (k : TransportKind) (e : IoError) : (raiseError k e s).host = s.host := rfl
@[simp] theorem raiseError_busReq (k : TransportKind) (e : IoError) : (raiseError k e s).busReq = none := rfl
@[simp] theorem raiseError_writeAnswers (k : TransportKind) (e : IoError) : (raiseError k e s).writeAnswers = s.writeAnswers := rfl
@[simp] theorem raiseError_readAnswers (k : TransportKind) (e : IoError) : (raiseError k e s).readAnswers = s.readAnswers := rfl
@[simp] theorem raiseError_builtFrame (k : TransportKind) (e : IoError) : (raiseError k e s).builtFrame = s.builtFrame := rfl
@[simp] theorem raiseError_invalidParam (k : TransportKind) (e : IoError) : (raiseError k e s).invalidParam = s.invalidParam := rfl
@[simp] theorem raiseError_draws (k : TransportKind) (e : IoError) : (raiseError k e s).draws = s.draws := rfl
@[simp] theorem raiseError_history (k : TransportKind) (e : IoError) : (raiseError k e s).history = s.history ++ [.ret (.err k e)] := rfl

@[simp] theorem State.hardReset_phase : s.hardReset.phase = .idle := rfl
@[simp] theorem State.hardReset_latches : s.hardReset.latches = .empty := rfl
@[simp] theorem State.hardReset_result : s.hardReset.result = none := rfl
@[simp] theorem State.hardReset_busLock : s.hardReset.busLock = false := rfl
@[simp] theorem State.hardReset_timer : s.hardReset.timer = none := rfl
@[simp] theorem State.hardReset_ddcAddr : s.hardReset.ddcAddr = s.ddcAddr := rfl
@[simp] theorem State.hardReset_bus : s.hardReset.bus = s.bus := rfl
@[simp] theorem State.hardReset_resetLine : s.hardReset.resetLine = false := rfl
@[simp] theorem State.hardReset_host : s.hardReset.host = s.host := rfl
@[simp] theorem State.hardReset_busReq : s.hardReset.busReq = none := rfl
@[simp] theorem State.hardReset_writeAnswers : s.hardReset.writeAnswers = s.writeAnswers := rfl
@[simp] theorem State.hardReset_readAnswers : s.hardReset.readAnswers = s.readAnswers := rfl
@[simp] theorem State.hardReset_builtFrame : s.hardReset.builtFrame = none := rfl
@[simp] theorem State.hardReset_invalidParam : s.hardReset.invalidParam = none := rfl
@[simp] theorem State.hardReset_draws : s.hardReset.draws = s.draws := rfl
@[simp] theorem State.hardReset_history : s.hardReset.history = s.history ++ [.hardReset] := rfl

end

end Sys2Proof.Machine
end

