-- ==== Sys2Proof/Laws/Ops.lean ====
section
/-! SUPPORT. What each shared operation can do, said once. -/

namespace Sys2Proof.Machine

@[simp] theorem andThen_next (s : State) (f : State → Out) : andThen (.next s) f = f s := rfl
@[simp] theorem andThen_fault (r : Fault) (f : State → Out) : andThen (.fault r) f = .fault r := rfl
@[simp] theorem andThen_refused (r : Refusal) (f : State → Out) : andThen (.refused r) f = .refused r := rfl

/-- A sequence answers a next state only through a next state of its first part. -/
theorem andThen_eq_next {o : Out} {f : State → Out} {t : State} (h : andThen o f = .next t) :
    ∃ s, o = .next s ∧ f s = .next t := by
  cases o with
  | next s => exact ⟨s, rfl, h⟩
  | fault r => simp at h
  | refused r => simp at h

@[simp] theorem withValue_some {α : Type} (l : LatchName) (v : α) (f : α → Out) : withValue l (some v) f = f v := rfl
@[simp] theorem withValue_none {α : Type} (l : LatchName) (f : α → Out) :
    withValue l none f = .fault (.noValue l) := rfl

/-- Reading a latch answers a next state only where the latch holds a value. -/
theorem withValue_eq_next {α : Type} {l : LatchName} {held : Option α} {f : α → Out} {t : State}
    (h : withValue l held f = .next t) : ∃ v, held = some v ∧ f v = .next t := by
  cases held with
  | some v => exact ⟨v, rfl, h⟩
  | none => simp at h

theorem busy_iff (s : State) : s.busy = true ↔ s.phase ≠ .idle := by simp [State.busy]

@[simp] theorem whenIdle_idle {s : State} (h : s.phase = .idle) (o : Out) : whenIdle s o = o := by
  simp [whenIdle, State.busy, h]

@[simp] theorem whenIdle_busy {s : State} (h : s.phase ≠ .idle) (o : Out) :
    whenIdle s o = .refused .notAccepted := by
  simp [whenIdle, State.busy, h]

/-- The host layer passes a well-formed operation on. -/
theorem hostLayer_wellFormed {i : Instr} (h : i.wellFormed = true) (s : State) (o : Out) :
    hostLayer (portOperands i) s o = o := by
  simp [hostLayer, (wellFormed_iff_firstInvalid i).1 h]

/-- The host layer stops an ill-formed operation with `InvalidParameter` and an offending value. -/
theorem hostLayer_illFormed {i : Instr} (h : i.wellFormed = false) (s : State) (o : Out) :
    ∃ v limit, (v, limit) ∈ portOperands i ∧ limit ≤ v ∧
      hostLayer (portOperands i) s o = .next (raiseInvalid v s) := by
  cases hf : firstInvalid (portOperands i) with
  | none => simp [(wellFormed_iff_firstInvalid i).2 hf] at h
  | some v =>
    obtain ⟨l, hm, hl⟩ := firstInvalid_some hf
    exact ⟨v, l, hm, hl, by simp [hostLayer, hf]⟩

/-- Byte `j` of a reply is the `j`-th byte the device delivered (R137: nothing is stripped, nothing decoded). -/
theorem firstBytes_getElem (n : Byte) (bytes : Vector Byte 255) (j : Nat) (h : j < n.toNat) :
    (firstBytes n bytes)[j] = bytes[j]'(Nat.lt_of_lt_of_le h (by have := n.isLt; omega)) := by
  simp [firstBytes]

/-- Every sequence of `n` bytes is a possible reply to a read of `n` (R57). -/
theorem firstBytes_surjective (n : Byte) (v : Vector Byte n.toNat) : ∃ bytes, firstBytes n bytes = v := by
  have hn : n.toNat ≤ 255 := by have := n.isLt; omega
  refine ⟨⟨(v.toList ++ List.replicate (255 - n.toNat) 0).toArray, by simp; omega⟩, ?_⟩
  ext j hj
  simp [firstBytes_getElem, hj]

theorem settleDuration_ge (ms bus draw : Nat) : ms ≤ settleDuration ms bus draw := Nat.le_add_right _ _

end Sys2Proof.Machine
end

