-- ==== Sys2Proof/Laws/Builder.lean ====
section
/-! SUPPORT. What the byte-serial builder does (spec 40_frame_builder.md R118, R119), and acceptance of the two bus
operations, said once for the proofs that cite them. -/

namespace Sys2Proof.Machine

/-- The latches the builder leaves, given those it read. -/
def Latches.withFrame (l : Latches) (d : Addr) (opc ap vp : Byte) : Latches :=
  { l with
    acc := some (checksum d opc ap vp)
    idx := some 6
    frame := #v[some Config.srcAddr, some Config.lenByte, some Config.tag, some opc, some ap, some vp,
      some (checksum d opc ap vp)] }

theorem frameLatches_withFrame (l : Latches) (d : Addr) (opc ap vp : Byte) :
    frameLatches (l.withFrame d opc ap vp) = some (frameBytes d opc ap vp) := rfl

/-- Seven elements of a vector written in order are the vector. -/
theorem vector_seven_set {α : Type} (v : Vector α 7) (a b c d e f g : α) :
    (((((((v.setIfInBounds 0 a).setIfInBounds 1 b).setIfInBounds 2 c).setIfInBounds 3 d).setIfInBounds 4 e).setIfInBounds
      5 f).setIfInBounds 6 g) = #v[a, b, c, d, e, f, g] := by
  ext i hi
  simp only [Vector.getElem_setIfInBounds]
  interval_cases i <;> simp

/-- `build_frame` over latches whose four operands hold values writes `ACC`, `IDX`, `FRAME` and nothing else. -/
theorem buildFrame_next (s : State) (d : Addr) (opc ap vp : Byte) (hd : s.latches.dest = some d)
    (ho : s.latches.opc = some opc) (ha : s.latches.ap = some ap) (hv : s.latches.vp = some vp) :
    buildFrame s = .next { s with latches := s.latches.withFrame d opc ap vp } := by
  simp [buildFrame, builderStart, builderRun, builderStep, emitByte, Config.frameLen, hd, ho, ha, hv, vector_seven_set,
    Latches.withFrame, checksum, preChecksum]

open Safety in
/-- Acceptance of `send_command` at the ports. -/
theorem sendCommand_next {s : State} (h : s.phase = .idle) (d : Addr) (opc ap vp rlen : Byte) :
    sendCommand d opc ap vp rlen s =
      .next (acceptedState (.send d opc ap vp rlen)
        ⟨d, frameBytes d opc ap vp, Config.tSettleCmd, rlen⟩ s) := by
  rw [sendCommand, whenIdle_idle h, buildFrame_next _ d opc ap vp rfl rfl rfl rfl]
  rfl

open Safety in
/-- Acceptance of `read_edid` at the ports. -/
theorem readEdid_next {s : State} (h : s.phase = .idle) :
    readEdid s =
      .next (acceptedState .edid ⟨Config.edidAddr, Config.edidPtr, Config.tSettleEdid, Config.edidLen⟩ s) := by
  rw [readEdid, whenIdle_idle h]
  rfl

/-- `build_frame` alone returns its frame and leaves the block idle. -/
theorem buildOnly_next {s : State} (h : s.phase = .idle) (d : Addr) (opc ap vp : Byte) :
    buildOnly d opc ap vp s =
      .next { s with
        latches := .empty
        builtFrame := some (frameBytes d opc ap vp)
        invalidParam := none
        history := s.history ++ [.accept (.build d opc ap vp), .built (frameBytes d opc ap vp)] } := by
  rw [buildOnly, whenIdle_idle h, buildFrame_next _ d opc ap vp rfl rfl rfl rfl]
  simp [returnFrame, frameLatches_withFrame, State.record]

end Sys2Proof.Machine
end

