-- ==== Sys2Proof/Laws/Instances.lean ====
section
/-! SUPPORT. What a step of one instance among several does to the others and to the buses (spec 20_memory.md R73), said once
for the proofs that cite it. -/

namespace Sys2Proof.Machine

theorem attempt_of_next {s t : State} (h : step s = .next t) : attempt s = t := by simp [attempt, h]

theorem attempt_of_fault {s : State} {r : Fault} (h : step s = .fault r) : attempt s = s := by simp [attempt, h]

theorem attempt_of_refused {s : State} {r : Refusal} (h : step s = .refused r) : attempt s = s := by simp [attempt, h]

@[simp] theorem State.onBus_self (s : State) (b : Bus) : s.onBus (b.after s) = s := rfl
@[simp] theorem State.onBus_bus (s : State) (b : Bus) : (s.onBus b).bus = s.bus := rfl
@[simp] theorem Bus.after_handle (s : State) (b : Bus) : (b.after s).handle = b.handle := rfl

/-- One instance per bus: two different instances are on different buses. -/
theorem bus_ne {sys : System} (h : sys.oneInstancePerBus = true) {i j : Nat} {s t : State} (hij : i ≠ j)
    (hi : sys.instances[i]? = some s) (hj : sys.instances[j]? = some t) : s.bus ≠ t.bus := by
  intro e
  have hn : (sys.instances.map (·.bus)).Nodup := by simpa [System.oneInstancePerBus] using h
  obtain ⟨li, hi'⟩ := List.getElem?_eq_some_iff.1 hi
  obtain ⟨lj, hj'⟩ := List.getElem?_eq_some_iff.1 hj
  refine hij ((List.Nodup.getElem_inj_iff hn (i := i) (j := j) (hi := by simpa) (hj := by simpa)).1 ?_)
  simp [hi', hj', e]

/-- An instance on its bus keeps its own handle. -/
theorem view_eq_some {sys : System} {k : Nat} {s : State} (h : sys.view k = some s) :
    ∃ s₀ b, sys.instances[k]? = some s₀ ∧ sys.bus? s₀.bus = some b ∧ s = s₀.onBus b := by
  unfold System.view at h
  cases hk : sys.instances[k]? with
  | none => simp [hk] at h
  | some s₀ =>
    simp only [hk, Option.map_eq_some_iff] at h
    obtain ⟨b, hb, rfl⟩ := h
    exact ⟨s₀, b, rfl, hb, rfl⟩

/-- Looking a bus up after the bus `h` has been rewritten in place. -/
theorem find?_map_handle (bs : List Bus) (h h' : BusHandle) (f : Bus → Bus) (hf : ∀ b, (f b).handle = b.handle) :
    (bs.map fun b => if b.handle == h then f b else b).find? (fun b => b.handle == h') =
      (bs.find? fun b => b.handle == h').map fun b => if b.handle == h then f b else b := by
  induction bs with
  | nil => rfl
  | cons b bs ih =>
    have hb : (if b.handle == h then f b else b).handle = b.handle := by split <;> simp [hf]
    rw [List.map_cons, List.find?_cons, List.find?_cons, hb]
    cases b.handle == h' with
    | true => rfl
    | false => exact ih

end Sys2Proof.Machine
end

