-- ==== Sys2Proof/Laws/PerInstr.lean ====
section
/-! SUPPORT. Statements about every operation as syntax, one lemma per constructor of `Instr`. -/

namespace Sys2Proof.Laws.EncodesToItsRow

open Sys2Proof.Machine

/-- The bytes of an operation match the row of the opcode map that bears its kind, and have the row's width, whatever
the destination of the catalog commands (spec 30_encoding.md R91, R92). -/
def Statement (i : Instr) : Prop :=
  ∀ ddc : Addr, (∃ r ∈ opcodeRows, r.kind = (descriptorOf i).kind ∧ matchesPattern r.pattern (encodeBytes ddc i) = true) ∧
    tableBits i = 8 * (encodeBytes ddc i).length

/-- The fixed bytes of every row stand in the frame the encoder writes. -/
theorem every (i : Instr) : Statement i := by
  intro ddc
  cases i <;> simp [opcodeRows, descriptorOf, encodeBytes, matchesPattern, frameBytes_eq, Config.srcAddr, Config.lenByte,
    Config.lenFlag, Config.bodyLen, Config.tag, Config.edidPtr, tableBits]

theorem buildFrame (dest opcode ap vp : Nat) : Statement (.buildFrame dest opcode ap vp) := every _
theorem sendCommand (dest opcode ap vp rlen : Nat) : Statement (.sendCommand dest opcode ap vp rlen) := every _
theorem inputSelect (display : Nat) : Statement (.inputSelect display) := every _
theorem systemReset : Statement .systemReset := every _
theorem selectLanguage (language : Nat) : Statement (.selectLanguage language) := every _
theorem getModelStr : Statement .getModelStr := every _
theorem readEeprom (adh adl : Nat) : Statement (.readEeprom adh adl) := every _
theorem readEdid : Statement .readEdid := every _

end Sys2Proof.Laws.EncodesToItsRow
end

