-- ==== Sys2Proof/Laws/Sequencer.lean ====
section
/-! SUPPORT. What the sequencer does in each waiting phase while an operation is in progress, said once for both kinds
(spec 41_transaction.md R133 to R139, 43_edid_reader.md R171), and one equation of `step` per phase. -/

namespace Sys2Proof.Machine

open Safety

theorem step_reset {s : State} (h : s.resetLine = true) : step s = .next s.hardReset := by simp [step, h]

theorem step_idle {s : State} (h : s.resetLine = false) (hp : s.phase = .idle) : step s = onIdle s := by
  simp [step, h, hp]

theorem step_write {s : State} (h : s.resetLine = false) (hp : s.phase = .write) : step s = onWrite s := by
  simp [step, h, hp]

theorem step_settle {s : State} (h : s.resetLine = false) (hp : s.phase = .settle) : step s = onSettle s := by
  simp [step, h, hp]

theorem step_read {s : State} (h : s.resetLine = false) (hp : s.phase = .read) : step s = onRead s := by
  simp [step, h, hp]

theorem onWrite_silent {s : State} (h : s.writeAnswers = []) : onWrite s = .next s := by
  simp [onWrite, h]

theorem onRead_silent {s : State} (h : s.readAnswers = []) : onRead s = .next s := by
  simp [onRead, h]

/-- A state whose write failed, of whatever kind. -/
theorem onWrite_fail {s : State} {a : Addr} {bs : List Byte} {e : IoError} {rest : List WriteAnswer}
    (hb : s.busReq = some (.write a bs)) (hw : s.writeAnswers = .fail e :: rest) :
    onWrite s =
      .next (returnedState (.err .busWriteFailed e) [.write a bs (.fail e)] { s with writeAnswers := rest }) := by
  simp only [onWrite, hb, hw]
  rfl

/-- A write that succeeded, no reply being expected. -/
theorem onWrite_ok_last {s : State} {op : Operation} {p : Plan} {rest : List WriteAnswer} (h : InProgress op p s)
    (hb : s.busReq = some (.write p.addr p.bytes)) (hw : s.writeAnswers = .ok :: rest) (hn : p.replyLength = 0) :
    onWrite s = .next (returnedState .okNoValue [.write p.addr p.bytes .ok] { s with writeAnswers := rest }) := by
  have hp := h.plan
  cases op with
  | build => simp [planOf] at hp
  | edid => simp [planOf] at hp; subst hp; simp [Config.edidLen] at hn
  | send d o a v n =>
    simp [planOf] at hp; subst hp
    have hz : n = 0 := hn
    subst hz
    simp only [onWrite, hb, hw, afterWriteOk, State.record_latches, h.latches, latchesOf, withValue_some, if_true]
    rfl

/-- A write that succeeded, a read being due: the settle wait starts. -/
theorem onWrite_ok_settle {s : State} {op : Operation} {p : Plan} {rest : List WriteAnswer} (h : InProgress op p s)
    (hb : s.busReq = some (.write p.addr p.bytes)) (hw : s.writeAnswers = .ok :: rest) (hn : p.replyLength ≠ 0) :
    onWrite s = .next { s with
      phase := .settle, timer := some p.interval, busReq := none, writeAnswers := rest
      history := s.history ++ [.write p.addr p.bytes .ok] } := by
  have hp := h.plan
  cases op with
  | build => simp [planOf] at hp
  | edid =>
    simp [planOf] at hp; subst hp
    simp only [onWrite, hb, hw, afterWriteOk, State.record_latches, h.latches, latchesOf, Latches.forEdid, withValue_some]
    rfl
  | send d o a v n =>
    simp [planOf] at hp; subst hp
    have hz : n ≠ 0 := hn
    simp only [onWrite, hb, hw, afterWriteOk, State.record_latches, h.latches, latchesOf, withValue_some, if_neg hz]
    rfl

/-- The settle wait elapses: the one read is issued. -/
theorem onSettle_inProgress {s : State} {op : Operation} {p : Plan} {ms : Nat} (h : InProgress op p s)
    (ht : s.timer = some ms) :
    onSettle s = .next { s with
      phase := .read, timer := none, busReq := some (.read p.addr p.replyLength), draws := s.draws + 1
      history := s.history ++ [.settleElapsed (settleDuration ms s.bus.number s.draws)] } := by
  have hp := h.plan
  cases op with
  | build => simp [planOf] at hp
  | edid =>
    simp [planOf] at hp; subst hp
    simp only [onSettle, ht, afterSettle, State.record_latches, h.latches, latchesOf, Latches.forEdid, withValue_some]
    rfl
  | send d o a v n =>
    simp [planOf] at hp; subst hp
    simp only [onSettle, ht, afterSettle, State.record_latches, h.latches, latchesOf, withValue_some]
    rfl

/-- A read is answered: the operation returns, with the reply or with the bus's error. -/
theorem onRead_answered {s : State} {a : Addr} {n : Byte} {r : DeviceRead} {rest : List DeviceRead}
    (hb : s.busReq = some (.read a n)) (hr : s.readAnswers = r :: rest) :
    onRead s =
      .next (returnedState (resultOfRead (r.answer n)) [.read a n (r.answer n)] { s with readAnswers := rest }) := by
  simp only [onRead, hb, hr]
  cases r.answer n with
  | ok bytes => simp only [afterReadOk, withValue_some]; rfl
  | fail e => rfl

/-- An operation in progress whose read is due reads from 1 to 255 bytes; every write is 7 bytes or the EDID pointer. -/
theorem planOf_shape {op : Operation} {p : Plan} (h : planOf op = some p) :
    (p.bytes.length = 7 ∨ (p.addr = 0x50 ∧ p.bytes = [0x00])) ∧ p.replyLength.toNat ≤ 255 := by
  cases op with
  | build => simp [planOf] at h
  | edid => simp [planOf] at h; subst h; exact ⟨.inr ⟨rfl, rfl⟩, by simp [Config.edidLen]⟩
  | send d o a v n =>
    simp [planOf] at h; subst h
    have := n.isLt
    exact ⟨.inl rfl, by simp; omega⟩

/-- What `exec` can do, for every operation and state: the host layer's refusal of an operand, the return of a frame, the
acceptance of a bus operation, or (while `BUSY`) nothing at all. -/
theorem exec_cases (i : Instr) (s : State) :
    (∃ v, exec i s = .next (raiseInvalid v s)) ∨
    (s.phase ≠ .idle ∧ exec i s = .refused .notAccepted) ∨
    (s.phase = .idle ∧ ∃ d o a v, exec i s = .next { s with
        latches := .empty
        builtFrame := some (frameBytes d o a v)
        invalidParam := none
        history := s.history ++ [.accept (.build d o a v), .built (frameBytes d o a v)] }) ∨
    (s.phase = .idle ∧ ∃ op p, planOf op = some p ∧ exec i s = .next (acceptedState op p s)) := by
  cases hw : i.wellFormed with
  | false =>
    left
    cases i <;> (obtain ⟨v, -, -, -, h⟩ := hostLayer_illFormed hw s _; exact ⟨v, h⟩)
  | true =>
    right
    by_cases hp : s.phase = .idle
    · right
      cases i with
      | buildFrame dest opcode ap vp =>
        left
        exact ⟨hp, _, _, _, _, by rw [exec, execBuildFrame, hostLayer_wellFormed hw, buildOnly_next hp]⟩
      | sendCommand dest opcode ap vp rlen =>
        right
        exact ⟨hp, _, _, rfl, by rw [exec, execSendCommand, hostLayer_wellFormed hw, sendCommand_next hp]⟩
      | inputSelect display =>
        right
        exact ⟨hp, _, _, rfl, by rw [exec, execInputSelect, hostLayer_wellFormed hw, catalogCommand, sendCommand_next hp]⟩
      | systemReset =>
        right
        exact ⟨hp, _, _, rfl, by rw [exec, execSystemReset, hostLayer_wellFormed hw, catalogCommand, sendCommand_next hp]⟩
      | selectLanguage language =>
        right
        exact ⟨hp, _, _, rfl, by rw [exec, execSelectLanguage, hostLayer_wellFormed hw, catalogCommand, sendCommand_next hp]⟩
      | getModelStr =>
        right
        exact ⟨hp, _, _, rfl, by rw [exec, execGetModelStr, hostLayer_wellFormed hw, catalogCommand, sendCommand_next hp]⟩
      | readEeprom adh adl =>
        right
        exact ⟨hp, _, _, rfl, by rw [exec, execReadEeprom, hostLayer_wellFormed hw, catalogCommand, sendCommand_next hp]⟩
      | readEdid =>
        right
        exact ⟨hp, _, _, rfl, by rw [exec, execReadEdid, hostLayer_wellFormed hw, readEdid_next hp]⟩
    · left
      refine ⟨hp, ?_⟩
      cases i <;>
        simp only [exec, execBuildFrame, execSendCommand, execInputSelect, execSystemReset, execSelectLanguage,
          execGetModelStr, execReadEeprom, execReadEdid, hostLayer_wellFormed hw, buildOnly, sendCommand, catalogCommand,
          readEdid, whenIdle_busy hp]

end Sys2Proof.Machine
end

