-- ==== Sys2Proof/Laws/Words.lean ====
section
/-! SUPPORT. The single-word view of a byte sequence (spec 30_encoding.md R91) loses nothing: the decoder on a word is the
decoder on its bytes. Proofs rewrite with `decodeTableWord_wordOfBytes` and never let Lean evaluate a word that is not a
numeral. -/

namespace Sys2Proof

/-- The word of a byte sequence fits its width. -/
theorem wordOfBytes_lt (bs : List Byte) : wordOfBytes bs < 256 ^ bs.length := by
  induction bs with
  | nil => simp [wordOfBytes]
  | cons b bs ih =>
    have hb : b.toNat < 256 := b.isLt
    simp only [wordOfBytes, List.length_cons, pow_succ]
    nlinarith

/-- Whatever stands above them, the low bytes of a word are the bytes it was made of. -/
theorem bytesOfWord_add (bs : List Byte) (q : Nat) :
    bytesOfWord bs.length (wordOfBytes bs + q * 256 ^ bs.length) = bs := by
  induction bs generalizing q with
  | nil => rfl
  | cons b bs ih =>
    have hsum : wordOfBytes (b :: bs) + q * 256 ^ (bs.length + 1) =
        wordOfBytes bs + (b.toNat + q * 256) * 256 ^ bs.length := by
      simp only [wordOfBytes]; ring
    have hb : b.toNat < 256 := b.isLt
    simp only [List.length_cons, bytesOfWord, hsum, ih]
    congr 1
    rw [Nat.add_mul_div_right _ _ (by positivity), Nat.div_eq_of_lt (wordOfBytes_lt bs)]
    apply BitVec.eq_of_toNat_eq
    rw [BitVec.toNat_ofNat]
    omega

theorem bytesOfWord_wordOfBytes (bs : List Byte) : bytesOfWord bs.length (wordOfBytes bs) = bs := by
  simpa using bytesOfWord_add bs 0

/-- Decoding the word of a byte sequence is decoding the sequence, at the table's two widths. -/
theorem decodeWord_wordOfBytes (bs : List Byte) (n : Nat) (hn : n = 8 * bs.length) (h : n = 8 ∨ n = 56) :
    decodeWord n (wordOfBytes bs) = decodeBytes bs := by
  have hlt := wordOfBytes_lt bs
  have hpow : 256 ^ bs.length = 2 ^ n := by rw [hn, pow_mul]; norm_num
  have hlen : n / 8 = bs.length := by omega
  rw [decodeWord, if_neg (by omega), if_neg (by omega), hlen, bytesOfWord_wordOfBytes]

/-- The same for `decodeTableWord`. -/
theorem decodeTableWord_wordOfBytes (bs : List Byte) (n : Nat) (hn : n = 8 * bs.length) (h : n = 8 ∨ n = 56) :
    decodeTableWord n (wordOfBytes bs) = (decodeBytes bs).toOption := by
  rw [decodeTableWord, decode, decodeWord_wordOfBytes bs n hn h]
  cases decodeBytes bs <;> rfl

end Sys2Proof
end

