-- ==== Sys2Proof/Tests/Slice0.lean ====
section
/-! SUPPORT. The model's own tests. Expected values come from spec 95_test_vectors.md (the vector is named) or from a
rule's own worked example; words are written out from the encodings of opcode_table.json and 30_encoding.md R91, R92. The
second half gives, for every obligation that has hypotheses, a concrete state and operands that meet them. -/

namespace Sys2Proof.Tests

open Sys2Proof Sys2Proof.Machine Sys2Proof.Safety

/-! ## WellFormed: for each check an ill-formed term it refuses, beside the largest value it takes -/

theorem test_wf_buildFrame_dest :
    (Instr.buildFrame 128 0 0 0).wellFormed = false ∧ (Instr.buildFrame 127 0 0 0).wellFormed = true := by decide
theorem test_wf_buildFrame_opcode :
    (Instr.buildFrame 0 256 0 0).wellFormed = false ∧ (Instr.buildFrame 0 255 0 0).wellFormed = true := by decide
theorem test_wf_buildFrame_ap :
    (Instr.buildFrame 0 0 256 0).wellFormed = false ∧ (Instr.buildFrame 0 0 255 0).wellFormed = true := by decide
theorem test_wf_buildFrame_vp :
    (Instr.buildFrame 0 0 0 256).wellFormed = false ∧ (Instr.buildFrame 0 0 0 255).wellFormed = true := by decide
theorem test_wf_sendCommand_dest :
    (Instr.sendCommand 128 0 0 0 0).wellFormed = false ∧ (Instr.sendCommand 127 0 0 0 0).wellFormed = true := by decide
theorem test_wf_sendCommand_opcode :
    (Instr.sendCommand 0 256 0 0 0).wellFormed = false ∧ (Instr.sendCommand 0 255 0 0 0).wellFormed = true := by decide
theorem test_wf_sendCommand_ap :
    (Instr.sendCommand 0 0 256 0 0).wellFormed = false ∧ (Instr.sendCommand 0 0 255 0 0).wellFormed = true := by decide
theorem test_wf_sendCommand_vp :
    (Instr.sendCommand 0 0 0 256 0).wellFormed = false ∧ (Instr.sendCommand 0 0 0 255 0).wellFormed = true := by decide
theorem test_wf_sendCommand_rlen :
    (Instr.sendCommand 0 0 0 0 256).wellFormed = false ∧ (Instr.sendCommand 0 0 0 0 255).wellFormed = true := by decide
theorem test_wf_inputSelect :
    (Instr.inputSelect 256).wellFormed = false ∧ (Instr.inputSelect 255).wellFormed = true := by decide
/-- X2 of 95_test_vectors.md. -/
theorem test_wf_selectLanguage :
    (Instr.selectLanguage 256).wellFormed = false ∧ (Instr.selectLanguage 255).wellFormed = true := by decide
theorem test_wf_readEeprom_adh :
    (Instr.readEeprom 256 0).wellFormed = false ∧ (Instr.readEeprom 255 0).wellFormed = true := by decide
theorem test_wf_readEeprom_adl :
    (Instr.readEeprom 0 256).wellFormed = false ∧ (Instr.readEeprom 0 255).wellFormed = true := by decide
theorem test_wf_noOperands :
    Instr.systemReset.wellFormed = true ∧ Instr.getModelStr.wellFormed = true ∧ Instr.readEdid.wellFormed = true := by
  decide

/-! ## Decoding: each constructor from a word or a descriptor written out from the spec's encoding -/

/-- K2: `01010000 10000100 00000011 11110100 00000000 vvvvvvvv cccccccc`. -/
theorem test_decode_inputSelect :
    decodeTableWord 56 0b01010000100001000000001111110100000000000000000101001100 = some (.inputSelect 1) := by decide
/-- K9. -/
theorem test_decode_systemReset :
    decodeTableWord 56 0b01010000100001000000001111110101000000000000000001001100 = some .systemReset := by decide
/-- K17. -/
theorem test_decode_selectLanguage :
    decodeTableWord 56 0b01010000100001000000001101101000000000001111111100101110 = some (.selectLanguage 255) := by decide
/-- K18. -/
theorem test_decode_getModelStr :
    decodeTableWord 56 0b01010000100001000000001111001010000000000000000001110011 = some .getModelStr := by decide
/-- E2. -/
theorem test_decode_readEeprom :
    decodeTableWord 56 0b01010000100001000000001111100111101000001000000001111110 = some (.readEeprom 160 128) := by decide
/-- T10's frame: an opcode outside the catalog; the word holds neither destination nor reply length. -/
theorem test_decode_sendCommand :
    decodeTableWord 56 0x5084035C0102AC = some (.sendCommand 0 0x5C 1 2 0) := by decide
/-- The EDID pointer, `00000000` (R86). -/
theorem test_decode_readEdid : decodeTableWord 8 0b00000000 = some .readEdid := by decide
/-- `BUILD` is told from `SEND` by the descriptor's kind alone (R84). -/
theorem test_decode_buildFrame :
    decode (.fields { kind := .build, dest := 0x37, opcode := 0xF5, addrParam := 0xAA, valueParam := 0xAB }) =
      .ok (.buildFrame 0x37 0xF5 0xAA 0xAB) := by decide
/-- `adh` is the `addr_param` port, `adl` the `value_param` port; other fields are not looked at (R84). -/
theorem test_decode_readEeprom_fields :
    decode (.fields { kind := .readEeprom, dest := 1, opcode := 2, addrParam := 0xA0, valueParam := 0x80, replyLength := 3 })
      = .ok (.readEeprom 0xA0 0x80) := by decide
/-- A catalog opcode whose fixed parameter byte is not `0x00` is no catalog row (R92) and still a frame (R94). -/
theorem test_decode_catalog_opcode_other_parameter :
    decodeTableWord 56 0x508403F501004D = some (.sendCommand 0 0xF5 1 0 0) := by decide

/-! Rejected by name -/

theorem test_reject_source : decodeBytes [0x51, 0x84, 0x03, 0, 0, 0, 0] = .error (.sourceAddress 0x51) := by decide
/-- No other body length exists (R97). -/
theorem test_reject_length : decodeBytes [0x50, 0x83, 0x03, 0, 0, 0, 0] = .error (.lengthByte 0x83) := by decide
theorem test_reject_tag : decodeBytes [0x50, 0x84, 0x01, 0, 0, 0, 0] = .error (.tagByte 0x01) := by decide
theorem test_reject_pointer : decodeBytes [0x01] = .error (.pointerByte 0x01) := by decide
theorem test_reject_sequence : decodeBytes [0x50, 0x84, 0x03, 0xF5, 0, 0] = .error (.sequenceLength 6) := by decide
theorem test_reject_width : decode (.word 16 0x5084) = .error (.wordWidth 16) := by decide
theorem test_reject_overflow : decode (.word 8 256) = .error (.wordOverflow 8 256) := by decide

/-- The match and mask columns of opcode_table.json, from the patterns: every fixed byte is `FF` in the mask. -/
theorem test_rows_match_and_mask :
    opcodeRows.map (fun r => (wordOfBytes (r.pattern.map (·.getD 0)),
      wordOfBytes (r.pattern.map fun p => if p.isSome then 0xFF else 0))) =
    [ (0x508403F4000000, 0xFFFFFFFFFF0000), (0x508403F5000000, 0xFFFFFFFFFFFF00), (0x50840368000000, 0xFFFFFFFFFF0000),
      (0x508403CA000000, 0xFFFFFFFFFFFF00), (0x508403E7000000, 0xFFFFFFFF000000), (0x50840300000000, 0xFFFFFF00000000),
      (0x50840300000000, 0xFFFFFF00000000), (0x00, 0xFF) ] := by decide

/-- No two of the five catalog rows match one frame: their opcode bytes differ (R92). -/
theorem test_catalog_rows_disjoint :
    (opcodeRows.take 5).Pairwise (fun a b => a.pattern[3]? ≠ b.pattern[3]?) := by decide

/-- Words of K9, K18, B9 with the checksum computed by the encoder (R91). -/
theorem test_encodeWord :
    encodeWord 0x37 .systemReset = 0x508403F500004C ∧ encodeWord 0x37 .getModelStr = 0x508403CA000073 ∧
    encodeWord 0x37 (.readEeprom 0xA0 0x80) = 0x508403E7A0807E ∧ encodeWord 0x37 .readEdid = 0 := by decide

/-- R98, R99 and P1, P2: the textual form, upper case (D25). -/
theorem test_text :
    (Instr.selectLanguage 1).text = "select_language 0x01".toList ∧
    (Instr.readEeprom 0xA0 0x80).text = "read_eeprom 0xA0, 0x80".toList ∧
    Instr.readEdid.text = "read_edid".toList ∧
    hexBytes [0x50, 0x84, 0x03, 0xF5, 0x00, 0x00, 0x4C] = "50 84 03 F5 00 00 4C".toList := by decide

/-- R93 on the golden frame and on F1's false one. -/
theorem test_recognisesFrame :
    recognisesFrame 0x37 [0x50, 0x84, 0x03, 0xF5, 0x00, 0x00, 0x4C] = true ∧
    recognisesFrame 0x37 [0x50, 0x84, 0x03, 0xF5, 0x00, 0x00, 0x4D] = false := by decide

/-! ## The builder -/

/-- B1, B11, B12, B13: the golden frame, all ones, a zero checksum, equal parameters cancel. -/
theorem test_build_vectors :
    frameBytes 0x37 0xF5 0x00 0x00 = [0x50, 0x84, 0x03, 0xF5, 0x00, 0x00, 0x4C] ∧
    frameBytes 0x37 0xFF 0xFF 0xFF = [0x50, 0x84, 0x03, 0xFF, 0xFF, 0xFF, 0x46] ∧
    frameBytes 0x37 0xB9 0x00 0x00 = [0x50, 0x84, 0x03, 0xB9, 0x00, 0x00, 0x00] ∧
    frameBytes 0x37 0xF5 0xAA 0xAA = [0x50, 0x84, 0x03, 0xF5, 0xAA, 0xAA, 0x4C] := by decide
/-- B14, B15 (swapped parameters), B18, B20, B21: the ends of the 7-bit range, a destination equal to the source byte. -/
theorem test_build_vectors_other :
    frameBytes 0x37 0xE7 0x12 0x34 = [0x50, 0x84, 0x03, 0xE7, 0x12, 0x34, 0x78] ∧
    frameBytes 0x37 0xE7 0x34 0x12 = [0x50, 0x84, 0x03, 0xE7, 0x34, 0x12, 0x78] ∧
    frameBytes 0x00 0x00 0x00 0x00 = [0x50, 0x84, 0x03, 0x00, 0x00, 0x00, 0xD7] ∧
    frameBytes 0x7F 0xFF 0xFF 0xFF = [0x50, 0x84, 0x03, 0xFF, 0xFF, 0xFF, 0xD6] ∧
    frameBytes 0x50 0xF5 0x00 0x00 = [0x50, 0x84, 0x03, 0xF5, 0x00, 0x00, 0x82] := by decide

/-- The builder's operands in its latches. -/
def withOperands (d : Addr) (opc ap vp : Byte) : State := { State.reset with latches := .forBuild d opc ap vp }

/-- What `f` reads of a next state. -/
def readNext {α : Type} (o : Out) (f : State → α) : Option α :=
  match o with
  | .next s => some (f s)
  | .fault _ => none
  | .refused _ => none

/-- Section 6 of 95_test_vectors.md: `IDX` and `ACC` after start and after each of the seven steps. -/
theorem test_byte_serial_trace :
    (List.range 8).map (fun k =>
      readNext (andThen (builderStart (withOperands 0x37 0xE7 0xA0 0x80)) (builderRun k)) fun s => (s.latches.idx, s.latches.acc)) =
    [ some (some 0, some 0x6E), some (some 1, some 0x3E), some (some 2, some 0xBA), some (some 3, some 0xB9),
      some (some 4, some 0x5E), some (some 5, some 0xFE), some (some 6, some 0x7E), some (some 6, some 0x7E) ] := by decide

/-- Section 6, after step 5: five frame bytes written, two latches still without a value. -/
theorem test_byte_serial_frame :
    readNext (andThen (builderStart (withOperands 0x37 0xE7 0xA0 0x80)) (builderRun 5)) (fun s => s.latches.frame) =
      some #v[some 0x50, some 0x84, some 0x03, some 0xE7, some 0xA0, none, none] := by decide

/-- R31: a builder run over latches that hold no value is the model's fault, and says which latch. -/
theorem test_builder_reads_no_unwritten_latch :
    buildFrame State.reset = .fault (.noValue .dest) := rfl

/-! ## Each operation, one step from an idle block. `issued` is what acceptance left at the ports. -/

/-- The phase, the bus port's access and the lock of a next state. -/
def issued (o : Out) : Option (Phase × Option BusRequest × Bool) := readNext o fun s => (s.phase, s.busReq, s.busLock)

/-- P4, operation 2. -/
theorem test_exec_buildFrame :
    readNext (exec (.buildFrame 0x37 0xF5 0xAA 0xAA) State.reset) (fun s => (s.builtFrame, s.phase, s.busReq, s.result)) =
      some (some [0x50, 0x84, 0x03, 0xF5, 0xAA, 0xAA, 0x4C], .idle, none, none) := by decide
/-- X3: `dest_addr = 0x80` is refused at the host layer. -/
theorem test_exec_buildFrame_invalid :
    readNext (exec (.buildFrame 0x80 0xF5 0 0) State.reset) (fun s => (s.invalidParam, s.builtFrame)) = some (some 128, none) := by
  decide
/-- T10: the frame goes to the 7-bit destination, not to the shifted one (R67). -/
theorem test_exec_sendCommand :
    issued (exec (.sendCommand 0x12 0x5C 0x01 0x02 0x04) State.reset) =
      some (.write, some (.write 0x12 [0x50, 0x84, 0x03, 0x5C, 0x01, 0x02, 0xAC]), true) := by decide
/-- A reply length of 256 is refused, never truncated to "none" (R95). -/
theorem test_exec_sendCommand_invalid :
    readNext (exec (.sendCommand 0x12 0x5C 0x01 0x02 256) State.reset) (fun s => (s.invalidParam, s.phase, s.busReq)) =
      some (some 256, .idle, none) := by decide
/-- K7: the checksum may be `00`. -/
theorem test_exec_inputSelect :
    issued (exec (.inputSelect 0x4D) State.reset) =
      some (.write, some (.write 0x37 [0x50, 0x84, 0x03, 0xF4, 0x00, 0x4D, 0x00]), true) := by decide
/-- K9, with the reply length of its row. -/
theorem test_exec_systemReset :
    readNext (exec .systemReset State.reset) (fun s => (s.busReq, s.latches.rlen)) =
      some (some (.write 0x37 [0x50, 0x84, 0x03, 0xF5, 0x00, 0x00, 0x4C]), some 16) := by decide
/-- K15. -/
theorem test_exec_selectLanguage :
    readNext (exec (.selectLanguage 0x7F) State.reset) (fun s => (s.busReq, s.latches.rlen)) =
      some (some (.write 0x37 [0x50, 0x84, 0x03, 0x68, 0x00, 0x7F, 0xAE]), some 0) := by decide
/-- X2. -/
theorem test_exec_selectLanguage_invalid :
    readNext (exec (.selectLanguage 256) State.reset) (fun s => (s.invalidParam, s.busReq)) = some (some 256, none) := by decide
/-- K18. -/
theorem test_exec_getModelStr :
    readNext (exec .getModelStr State.reset) (fun s => (s.busReq, s.latches.rlen)) =
      some (some (.write 0x37 [0x50, 0x84, 0x03, 0xCA, 0x00, 0x00, 0x73]), some 38) := by decide
/-- E11: the high byte first (R58). -/
theorem test_exec_readEeprom :
    readNext (exec (.readEeprom 0xAA 0x00) State.reset) (fun s => (s.busReq, s.latches.rlen)) =
      some (some (.write 0x37 [0x50, 0x84, 0x03, 0xE7, 0xAA, 0x00, 0xF4]), some 128) := by decide
/-- D1 and D24: the pointer byte to `0x50` whatever `DDC_ADDR` is; no frame is built. -/
theorem test_exec_readEdid :
    readNext (exec .readEdid (State.resetWith 0x22 ⟨1⟩)) (fun s => (s.busReq, s.latches.frame, s.latches.acc)) =
      some (some (.write 0x50 [0x00]), #v[none, none, none, none, none, none, none], none) := by decide

/-- P2: the sixteen invocations of the host's loop, and E1, E16 of their frames. -/
theorem test_eepromDump :
    eepromDump.length = 16 ∧ (eepromDump.head?.map (encodeWord 0x37)) = some 0x508403E7A000FE ∧
    (eepromDump.getLast?.map (encodeWord 0x37)) = some 0x508403E7AE8070 := by decide

/-! ## States used below: an operation in each waiting phase -/

/-- A device that delivers the bytes `00 01 02 ..`. -/
def ramp : DeviceRead := .delivers ⟨((List.range 255).map (BitVec.ofNat 8)).toArray, by simp⟩

/-- `get_model_str` accepted (T3): the write is outstanding, with these answers to come. -/
def modelStrWriting (ws : List WriteAnswer) (rs : List DeviceRead) : State :=
  acceptedState (.send 0x37 0xCA 0x00 0x00 0x26) ⟨0x37, frameBytes 0x37 0xCA 0x00 0x00, 500, 38⟩
    { State.reset with writeAnswers := ws, readAnswers := rs }

/-- `select_language 0x01` accepted (T1). -/
def languageWriting (ws : List WriteAnswer) : State :=
  acceptedState (.send 0x37 0x68 0x00 0x01 0x00) ⟨0x37, frameBytes 0x37 0x68 0x00 0x01, 500, 0⟩
    { State.reset with writeAnswers := ws }

/-- `get_model_str`'s write answered `Ok` (T3). -/
def modelStrSettling (rs : List DeviceRead) : State :=
  { modelStrWriting [] rs with
    phase := .settle, timer := some 500, busReq := none
    history := [.accept (.send 0x37 0xCA 0x00 0x00 0x26), .write 0x37 (frameBytes 0x37 0xCA 0x00 0x00) .ok] }

/-- `send_command 0x37, 0xF5, 0x00, 0x00, 0x01` with its read outstanding (T8). -/
def oneByteReading (rs : List DeviceRead) : State :=
  { acceptedState (.send 0x37 0xF5 0x00 0x00 0x01) ⟨0x37, frameBytes 0x37 0xF5 0x00 0x00, 500, 1⟩
      { State.reset with readAnswers := rs } with
    phase := .read, busReq := some (.read 0x37 1) }

/-- `read_edid` accepted (D1). -/
def edidWriting (ws : List WriteAnswer) (rs : List DeviceRead) : State :=
  acceptedState .edid ⟨0x50, [0x00], 150, 130⟩ { State.reset with writeAnswers := ws, readAnswers := rs }

/-- `read_edid`'s write answered `Ok`. -/
def edidSettling : State := { edidWriting [] [] with phase := .settle, timer := some 150, busReq := none }

/-- `read_edid` with its read outstanding. -/
def edidReading (rs : List DeviceRead) : State :=
  { edidWriting [] rs with phase := .read, busReq := some (.read 0x50 130) }

theorem modelStrWriting_inv (ws rs) : BlockInv (modelStrWriting ws rs) :=
  ⟨.send 0x37 0xCA 0x00 0x00 0x26, _, ⟨rfl, rfl, rfl, rfl⟩, rfl, rfl⟩
theorem languageWriting_inv (ws) : BlockInv (languageWriting ws) :=
  ⟨.send 0x37 0x68 0x00 0x01 0x00, _, ⟨rfl, rfl, rfl, rfl⟩, rfl, rfl⟩
theorem modelStrSettling_inv (rs) : BlockInv (modelStrSettling rs) :=
  ⟨.send 0x37 0xCA 0x00 0x00 0x26, _, ⟨rfl, rfl, rfl, rfl⟩, by decide, rfl, rfl⟩
theorem oneByteReading_inv (rs) : BlockInv (oneByteReading rs) :=
  ⟨.send 0x37 0xF5 0x00 0x00 0x01, _, ⟨rfl, rfl, rfl, rfl⟩, by decide, rfl, rfl⟩
theorem edidWriting_inv (ws rs) : BlockInv (edidWriting ws rs) := ⟨.edid, _, ⟨rfl, rfl, rfl, rfl⟩, rfl, rfl⟩
theorem edidSettling_inv : BlockInv edidSettling := ⟨.edid, _, ⟨rfl, rfl, rfl, rfl⟩, by decide, rfl, rfl⟩
theorem edidReading_inv (rs) : BlockInv (edidReading rs) := ⟨.edid, _, ⟨rfl, rfl, rfl, rfl⟩, by decide, rfl, rfl⟩

/-- The state named is what acceptance leaves. -/
theorem modelStrWriting_is_accepted (ws rs) :
    exec .getModelStr { State.reset with writeAnswers := ws, readAnswers := rs } = .next (modelStrWriting ws rs) := rfl

/-! ## One step in each waiting phase -/

/-- T4: a failed write returns at once; no settle wait, no read, whatever the device would do. -/
theorem test_step_write_fails :
    readNext (step (modelStrWriting [.fail ⟨1⟩] [ramp])) (fun s => (s.phase, s.result, s.busReq, s.timer, s.busLock)) =
      some (.idle, some (.err .busWriteFailed ⟨1⟩), none, none, false) := by decide
/-- T1: a write-only command ends with its write. -/
theorem test_step_write_only :
    readNext (step (languageWriting [.ok])) (fun s => (s.phase, s.result, s.latches)) =
      some (.idle, some .okNoValue, .empty) := by decide
/-- T3: the settle wait, the lock still held, nothing read. -/
theorem test_step_write_settles :
    readNext (step (modelStrWriting [.ok] [])) (fun s => (s.phase, s.timer, s.busReq, s.busLock)) =
      some (.settle, some 500, none, true) := by decide
/-- T3: the read of 38 bytes. -/
theorem test_step_settle_elapses :
    readNext (step (modelStrSettling [])) (fun s => (s.phase, s.timer, s.busReq)) = some (.read, none, some (.read 0x37 38)) := by
  decide
/-- T8. -/
theorem test_step_read_succeeds :
    readNext (step (oneByteReading [ramp])) (fun s => (s.phase, s.result, s.busLock)) =
      some (.idle, some (.okReply [0x00]), false) := by decide
/-- T5. -/
theorem test_step_read_fails :
    readNext (step (oneByteReading [.fails ⟨2⟩])) (fun s => (s.phase, s.result)) =
      some (.idle, some (.err .busReadFailed ⟨2⟩)) := by decide
/-- D1: 150 ms, and 130 bytes from `0x50`. -/
theorem test_step_edid :
    readNext (step (edidWriting [.ok] [])) (fun s => (s.phase, s.timer)) = some (.settle, some 150) ∧
    readNext (step edidSettling) (fun s => s.busReq) = some (some (.read 0x50 130)) := by decide
/-- T6: no answer, no step. -/
theorem test_step_write_silent : step (modelStrWriting [] []) = .next (modelStrWriting [] []) := rfl
/-- X1: nothing is accepted while `BUSY`. -/
theorem test_exec_busy : exec .systemReset (modelStrWriting [] []) = .refused .notAccepted := rfl
/-- R54, R58: a read of `n` bytes is answered with exactly the first `n`, in order. -/
theorem test_answer_length :
    ramp.answer 3 = .ok #v[0, 1, 2] ∧ ramp.answer 1 = .ok #v[0] ∧ (DeviceRead.fails ⟨4⟩).answer 3 = .fail ⟨4⟩ := by decide
/-- D1: the read of 130 bytes returns; the length is in the answer's type. -/
theorem test_step_edid_reads :
    readNext (step (edidReading [ramp])) (fun s => (s.phase, s.result.map Result.code)) = some (.idle, some 0) := by decide
/-- A word placed at the command port runs at the very next step, in a busy block too. -/
theorem test_withFetchWord :
    issued (step ((modelStrWriting [] []).withFetchWord 56 0x508403F500004C)) =
      some (.write, some (.write 0x37 [0x50, 0x84, 0x03, 0xF5, 0x00, 0x00, 0x4C]), true) ∧
    issued (step (State.reset.withFetchWord 8 0)) = some (.write, some (.write 0x50 [0x00]), true) := by decide

/-! ## Witnesses: for every obligation with hypotheses, a case that meets them all -/

theorem wit_TableWords :
    (Instr.readEeprom 255 255).wellFormed = true ∧ (Instr.readEeprom 255 255).wordHoldsOperands = true ∧
    (Instr.inputSelect 255).wellFormed = true ∧ (Instr.inputSelect 255).wordHoldsOperands = true ∧
    Instr.readEdid.wellFormed = true ∧ Instr.readEdid.wordHoldsOperands = true := by decide

/-- An opcode outside the catalog, and each catalog opcode but `E7` with another fixed parameter byte. -/
theorem wit_GenericFrameWords :
    [(255, 255, 255), (0xF4, 1, 0), (0xF5, 1, 0), (0xF5, 0, 1), (0x68, 255, 0), (0xCA, 0, 1)].all (fun (opcode, ap, vp) =>
      (Instr.sendCommand 127 opcode ap vp 255).wellFormed && !(opcode == 0xF4 && ap == 0) &&
      !(opcode == 0xF5 && ap == 0 && vp == 0) && !(opcode == 0x68 && ap == 0) && !(opcode == 0xCA && ap == 0 && vp == 0) &&
      opcode != 0xE7) = true := by decide

theorem wit_BuildFrameWrites :
    (withOperands 0x7F 0xFF 0xFF 0xFF).latches.dest = some 0x7F ∧ (withOperands 0x7F 0xFF 0xFF 0xFF).latches.opc = some 0xFF ∧
    (withOperands 0x7F 0xFF 0xFF 0xFF).latches.ap = some 0xFF ∧ (withOperands 0x7F 0xFF 0xFF 0xFF).latches.vp = some 0xFF := by
  decide

theorem wit_ByteSerial :
    builderStart (withOperands 0x7F 0xFF 0xFF 0xFF) =
      .next { withOperands 0x7F 0xFF 0xFF 0xFF with
        latches := { Latches.forBuild 0x7F 0xFF 0xFF 0xFF with acc := some 0xFE, idx := some 0 } } := rfl

theorem wit_FoldOverTheWholeFrame :
    foldXor ((0x37 : Addr).setWidth 8 <<< 1) [0x50, 0x84, 0x03, 0xF5, 0x00, 0x00, 0x4C] = 0x00 := by decide

theorem wit_idle_and_operands :
    State.reset.phase = .idle ∧ State.reset.resetLine = false ∧ (Instr.buildFrame 127 255 255 255).wellFormed = true ∧
    (Instr.sendCommand 127 255 255 255 255).wellFormed = true ∧ (255 : Nat) < 256 := by decide

theorem wit_SendCommand_busy :
    (modelStrWriting [] []).phase ≠ .idle ∧ (modelStrSettling []).phase ≠ .idle ∧ (oneByteReading []).phase ≠ .idle ∧
    (Instr.buildFrame 0 0 0 0).wellFormed = true := by decide

theorem wit_OutOfRange :
    (Instr.buildFrame 128 0 0 0).wellFormed = false ∧ (Instr.sendCommand 0 0 0 0 256).wellFormed = false ∧
    (Instr.inputSelect 256).wellFormed = false ∧ (Instr.selectLanguage 256).wellFormed = false ∧
    (Instr.readEeprom 256 256).wellFormed = false := by decide

/-- The same in a busy block: the host layer's record, the write still outstanding (notes/assumptions/15.md). -/
theorem wit_OutOfRange_busy :
    (modelStrWriting [] []).phase ≠ .idle ∧
    readNext (exec (.selectLanguage 256) (modelStrWriting [] [])) (fun s => (s.invalidParam, s.busReq)) =
      some (some 256, (modelStrWriting [] []).busReq) := by decide

/-- First clause (a decodable word), second clause (an undecodable one), third clause (a word placed). -/
theorem wit_IdleStep :
    (let s := { State.reset with host := [Presented.word 56 0x508403F500004C] }
     s.resetLine = false ∧ s.phase = .idle ∧ decode (.word 56 0x508403F500004C) = .ok .systemReset) ∧
    (let s := { State.reset with host := [Presented.word 8 1] }
     s.resetLine = false ∧ s.phase = .idle ∧ decode (.word 8 1) = .error (.pointerByte 1)) ∧
    decodeTableWord 8 0 = some .readEdid := by decide

theorem wit_SilentBus :
    (BlockInv (modelStrWriting [] []) ∧ (modelStrWriting [] []).resetLine = false ∧ BusSilent (modelStrWriting [] [])) ∧
    (BlockInv (edidReading []) ∧ (edidReading []).resetLine = false ∧ BusSilent (edidReading [])) :=
  ⟨⟨modelStrWriting_inv _ _, rfl, .inl ⟨rfl, rfl⟩⟩, edidReading_inv _, rfl, .inr ⟨rfl, rfl⟩⟩

theorem wit_HostIsNotHeard :
    (oneByteReading [ramp]).phase ≠ .idle ∧ (oneByteReading [ramp]).resetLine = false ∧
    (readNext (step (oneByteReading [ramp])) (fun _ => ())).isSome = true := by decide

theorem wit_FailedWrite :
    (BlockInv (languageWriting [.fail ⟨1⟩]) ∧ (languageWriting [.fail ⟨1⟩]).resetLine = false ∧
      (languageWriting [.fail ⟨1⟩]).phase = .write ∧ (languageWriting [.fail ⟨1⟩]).writeAnswers = .fail ⟨1⟩ :: []) ∧
    (BlockInv (edidWriting [.fail ⟨1⟩] []) ∧ (edidWriting [.fail ⟨1⟩] []).writeAnswers = .fail ⟨1⟩ :: []) :=
  ⟨⟨languageWriting_inv _, rfl, rfl, rfl⟩, edidWriting_inv _ _, rfl⟩

theorem wit_AcceptedWriteWithoutReply :
    BlockInv (languageWriting [.ok]) ∧ (languageWriting [.ok]).resetLine = false ∧ (languageWriting [.ok]).phase = .write ∧
    (languageWriting [.ok]).writeAnswers = .ok :: [] ∧ (languageWriting [.ok]).latches.kind = some .send ∧
    (languageWriting [.ok]).latches.rlen = some 0 :=
  ⟨languageWriting_inv _, rfl, rfl, rfl, rfl, rfl⟩

theorem wit_AcceptedWriteWithReply :
    BlockInv (modelStrWriting [.ok] []) ∧ (modelStrWriting [.ok] []).resetLine = false ∧
    (modelStrWriting [.ok] []).phase = .write ∧ (modelStrWriting [.ok] []).writeAnswers = .ok :: [] ∧
    (modelStrWriting [.ok] []).latches.kind = some .send ∧ (modelStrWriting [.ok] []).latches.rlen = some 38 ∧
    (38 : Byte) ≠ 0 :=
  ⟨modelStrWriting_inv _ _, rfl, rfl, rfl, rfl, rfl, by decide⟩

theorem wit_SettleElapse :
    BlockInv (modelStrSettling []) ∧ (modelStrSettling []).resetLine = false ∧ (modelStrSettling []).phase = .settle ∧
    (modelStrSettling []).latches.kind = some .send :=
  ⟨modelStrSettling_inv _, rfl, rfl, rfl⟩

theorem wit_SuccessfulRead :
    BlockInv (oneByteReading [ramp]) ∧ (oneByteReading [ramp]).resetLine = false ∧
    (oneByteReading [ramp]).phase = .read ∧ (oneByteReading [ramp]).readAnswers = ramp :: [] ∧ ramp.answer 1 = .ok #v[0] ∧
    (oneByteReading [ramp]).latches.kind = some .send ∧ (oneByteReading [ramp]).latches.rlen = some 1 :=
  ⟨oneByteReading_inv _, rfl, rfl, rfl, by decide, rfl, rfl⟩

theorem wit_FailedRead :
    BlockInv (edidReading [.fails ⟨2⟩]) ∧ (edidReading [.fails ⟨2⟩]).resetLine = false ∧ (edidReading [.fails ⟨2⟩]).phase = .read ∧
    (edidReading [.fails ⟨2⟩]).readAnswers = .fails ⟨2⟩ :: [] :=
  ⟨edidReading_inv _, rfl, rfl, rfl⟩

/-- One witness per clause: writing, settling, reading. -/
theorem wit_EdidReader :
    (BlockInv (edidWriting [.ok] []) ∧ (edidWriting [.ok] []).resetLine = false ∧
      (edidWriting [.ok] []).latches.kind = some .edid ∧ (edidWriting [.ok] []).phase = .write ∧
      (edidWriting [.ok] []).writeAnswers = .ok :: []) ∧
    (BlockInv edidSettling ∧ edidSettling.latches.kind = some .edid ∧ edidSettling.phase = .settle) ∧
    (BlockInv (edidReading [ramp]) ∧ (edidReading [ramp]).latches.kind = some .edid ∧
      (edidReading [ramp]).phase = .read ∧ (edidReading [ramp]).readAnswers = ramp :: [] ∧
      (∃ bytes, ramp.answer 130 = .ok bytes)) :=
  ⟨⟨edidWriting_inv _ _, rfl, rfl, rfl, rfl⟩, ⟨edidSettling_inv, rfl, rfl⟩, edidReading_inv _, rfl, rfl, rfl, _, rfl⟩

/-- One step per row of the transition table (R139), each changing `PHASE`, each from a state that meets the invariant. -/
theorem wit_TransitionTable :
    readNext (step { State.reset with host := [.fields { kind := .edid }] }) (·.phase) = some .write ∧
    readNext (step (modelStrWriting [.fail ⟨1⟩] [])) (·.phase) = some .idle ∧
    readNext (step (languageWriting [.ok])) (·.phase) = some .idle ∧
    readNext (step (modelStrWriting [.ok] [])) (·.phase) = some .settle ∧
    readNext (step (modelStrSettling [])) (·.phase) = some .read ∧
    readNext (step (oneByteReading [.fails ⟨1⟩])) (·.phase) = some .idle ∧
    readNext (step (oneByteReading [ramp])) (·.phase) = some .idle := by decide

theorem wit_idle_inv : BlockInv State.reset ∧ BlockInv { State.reset with host := [.fields { kind := .edid }] } :=
  ⟨⟨rfl, rfl, rfl, rfl⟩, rfl, rfl, rfl, rfl⟩

/-- Hypotheses of the statements about whole operations: an idle block and the bus's answers, a read being due; and with a
silent read environment where none is (a failed write, and `RLEN = 0`). -/
theorem wit_whole_operations :
    (let s := { State.reset with writeAnswers := [.ok], readAnswers := [.fails ⟨4⟩] }
     s.phase = .idle ∧ s.resetLine = false ∧ s.writeAnswers = .ok :: [] ∧ s.readAnswers = .fails ⟨4⟩ :: [] ∧
     (Instr.sendCommand 127 255 255 255 255).wellFormed = true) ∧
    (let s := { State.reset with writeAnswers := [.fail ⟨1⟩] }
     s.phase = .idle ∧ s.resetLine = false ∧ s.writeAnswers = .fail ⟨1⟩ :: [] ∧ s.readAnswers = [] ∧
     WriteAnswer.fail ⟨1⟩ ≠ .ok) ∧
    (let s := { State.reset with writeAnswers := [.ok] }
     s.phase = .idle ∧ s.writeAnswers = .ok :: [] ∧ s.readAnswers = [] ∧
     (Instr.sendCommand 0 0 0 0 0).wellFormed = true) := by decide

/-- Hypotheses of the two invariants' statements: a waiting state of a run, with its history, and its step. -/
theorem wit_invariants :
    BlockInv (edidWriting [.ok] []) ∧ InOrder (edidWriting [.ok] []) ∧
    (readNext (step (edidWriting [.ok] [])) (fun _ => ())).isSome = true :=
  ⟨edidWriting_inv _ _, ⟨.writing ⟨0x50, [0x00], 150, 130⟩, rfl, .edid, _, ⟨rfl, rfl, rfl, rfl⟩, rfl⟩, by decide⟩

/-- The settling state's history is in order too. -/
theorem wit_invariants_settling : InOrder (modelStrSettling []) :=
  ⟨.settling ⟨0x37, frameBytes 0x37 0xCA 0x00 0x00, 500, 38⟩, rfl, .send 0x37 0xCA 0x00 0x00 0x26, _, ⟨rfl, rfl, rfl, rfl⟩, rfl⟩

theorem wit_BusRequests :
    (modelStrWriting [] []).busReq = some (.write 0x37 (frameBytes 0x37 0xCA 0x00 0x00)) ∧
    (oneByteReading []).busReq = some (.read 0x37 1) := by decide

theorem wit_HardwareReset : ({ modelStrWriting [] [] with resetLine := true }).resetLine = true := rfl

/-- Two idle blocks that an earlier, failed operation left different. -/
theorem wit_NoOperationDepends :
    let s' := { State.reset with
      result := some (.err .busReadFailed ⟨3⟩), builtFrame := some [0x50], invalidParam := some 256
      history := [.ret (.err .busReadFailed ⟨3⟩)] }
    BlockInv State.reset ∧ BlockInv s' ∧ State.reset ≠ s' ∧ State.reset.host = s'.host ∧
    State.reset.writeAnswers = s'.writeAnswers ∧ State.reset.draws = s'.draws ∧
    (∀ dest opcode ap vp, Instr.getModelStr ≠ .buildFrame dest opcode ap vp) :=
  ⟨⟨rfl, rfl, rfl, rfl⟩, ⟨rfl, rfl, rfl, rfl⟩, by decide, rfl, rfl, rfl, fun _ _ _ _ h => nomatch h⟩

/-- Two instances, on two buses; the first one's read fails while the second is still at its write. -/
def twoInstances : System where
  buses := [⟨⟨0⟩, [.ok], [.fails ⟨9⟩]⟩, ⟨⟨1⟩, [.ok], [ramp]⟩]
  instances := [oneByteReading [], { edidWriting [] [] with bus := ⟨1⟩ }]

theorem wit_Instances :
    twoInstances.oneInstancePerBus = true ∧ (twoInstances.view 0).isSome = true ∧ (twoInstances.view 1).isSome = true ∧
    (System.runSchedule [1, 0, 1] twoInstances).isSome = true := by decide

/-- In that interleaving the first instance got its own bus's error and the second is at its read (R73). -/
theorem test_instances :
    ((System.runSchedule [1, 0, 1] twoInstances).bind (·.view 0)).map (·.result) =
      some (some (.err .busReadFailed ⟨9⟩)) ∧
    ((System.runSchedule [1, 0, 1] twoInstances).bind (·.view 1)).map (fun s => (s.phase, s.busReq, s.readAnswers.length)) =
      some (.read, some (.read 0x50 130), 1) := by decide

/-- R215 (c): two instances on one bus have no move. -/
theorem test_instances_same_bus :
    (System.start [(0x37, ⟨⟨0⟩, [.ok], []⟩), (0x37, ⟨⟨0⟩, [.ok], []⟩)]).stepInstance 0 = none := by decide

/-- An instance whose operation is refused at the port stays as it is, and the other one goes on. -/
theorem test_instances_refused :
    ((System.runSchedule [0, 1, 0]
      { twoInstances with instances := [{ State.reset with host := [.word 8 1] }, { edidWriting [] [] with bus := ⟨1⟩ }] }).bind
      (·.view 1)).map (·.phase) = some .settle := by decide

theorem wit_EveryAnswer :
    (BlockInv (edidWriting [] []) ∧ (edidWriting [] []).busReq = some (.write 0x50 [0x00])) ∧
    (BlockInv (edidReading []) ∧ (edidReading []).resetLine = false ∧ (edidReading []).busReq = some (.read 0x50 130)) :=
  ⟨⟨edidWriting_inv _ _, rfl⟩, edidReading_inv _, rfl, rfl⟩

/-- One witness per way a program ends: its last bus operation returns, its last `build_frame` does (P4), its last operation
is turned away by the host layer (X2). -/
theorem wit_ProgramEnds :
    (BlockInv (languageWriting [.ok]) ∧ ¬ ProgramEnded (languageWriting [.ok]) ∧
      ∃ t, step (languageWriting [.ok]) = .next t ∧ ProgramEnded t) ∧
    (let s := { State.reset with host := [.fields { kind := .build, dest := 0x37, opcode := 0xF5 }] }
     BlockInv s ∧ ¬ ProgramEnded s ∧ ∃ t, step s = .next t ∧ ProgramEnded t) ∧
    (let s := { State.reset with host := [.fields { kind := .selectLanguage, valueParam := 256 }] }
     BlockInv s ∧ ¬ ProgramEnded s ∧ ∃ t, step s = .next t ∧ ProgramEnded t) :=
  ⟨⟨languageWriting_inv _, fun h => (by cases h.1), _, rfl, rfl, rfl, .inl rfl⟩,
    ⟨⟨rfl, rfl, rfl, rfl⟩, fun h => (by cases h.2.1), _, rfl, rfl, rfl, .inr (.inl rfl)⟩,
    ⟨⟨rfl, rfl, rfl, rfl⟩, fun h => (by cases h.2.1), _, rfl, rfl, rfl, .inr (.inr rfl)⟩⟩

/-- Reset meets the hypothesis of the clause over runs. -/
theorem wit_NoRunEndsInAFault : BlockInv State.reset := ⟨rfl, rfl, rfl, rfl⟩

end Sys2Proof.Tests
end

section
/-! SUPPORT. Every step, from every state, and every step of a block of the invariant: what it can do, said once; and the
obligations of the state family (spec 10_state.md). -/

namespace Sys2Proof.Proofs

open Sys2Proof.Machine Sys2Proof.Safety

/-! ## What an idle block does with what is presented -/

section
variable {s : State} {p : Presented} {rest : List Presented} {i : Instr}

theorem onIdle_nothing (h : s.host = []) : onIdle s = .next s := by simp [onIdle, fetch, h]

theorem onIdle_operation (h : s.host = p :: rest) (hd : decode p = .ok i) :
    onIdle s = exec i { s with host := rest } := by simp [onIdle, fetch, h, hd]

theorem onIdle_undecodable {r : Reject} (h : s.host = p :: rest) (hd : decode p = .error r) :
    onIdle s = .refused (.undecodable r) := by simp [onIdle, fetch, h, hd]

end

/-! ## The waiting phases, one equation per case -/

section
variable {s : State}

theorem onWrite_noWrite (h : ¬ ∃ a bs, s.busReq = some (.write a bs)) : onWrite s = .next s := by
  unfold onWrite
  split
  · next hb _ => exact absurd ⟨_, _, hb⟩ h
  · rfl

theorem onWrite_ok {a : Addr} {bs : List Byte} {rest : List WriteAnswer} (hb : s.busReq = some (.write a bs))
    (hw : s.writeAnswers = .ok :: rest) :
    onWrite s = afterWriteOk (({ s with busReq := none, writeAnswers := rest }).record (.write a bs .ok)) := by
  simp only [onWrite, hb, hw]

theorem onSettle_stopped (h : s.timer = none) : onSettle s = .next s := by simp [onSettle, h]

theorem onSettle_running {ms : Nat} (h : s.timer = some ms) :
    onSettle s = afterSettle (({ s with timer := none, draws := s.draws + 1 }).record
      (.settleElapsed (settleDuration ms s.bus.number s.draws))) := by
  simp only [onSettle, h]

theorem onRead_noRead (h : ¬ ∃ a n, s.busReq = some (.read a n)) : onRead s = .next s := by
  unfold onRead
  split
  · next hb _ => exact absurd ⟨_, _, hb⟩ h
  · rfl

end

/-! ## The operation an instruction is accepted as -/

/-- The operation a catalog command is accepted as (R99, R151). -/
def catalogOperation (ddc : Addr) (row : CatalogRow) (addrParam valueParam : Nat) : Operation :=
  .send ddc (portByte row.opcode) (portByte (bindParam row.addrParam addrParam))
    (portByte (bindParam row.valueParam valueParam)) (portByte row.replyLength)

/-- The operation an instruction is accepted as, by a block whose `DDC_ADDR` is `ddc` (R74, R99). -/
def operationOf (ddc : Addr) : Instr → Operation
  | .buildFrame dest opcode ap vp => .build (portAddr dest) (portByte opcode) (portByte ap) (portByte vp)
  | .sendCommand dest opcode ap vp rlen =>
    .send (portAddr dest) (portByte opcode) (portByte ap) (portByte vp) (portByte rlen)
  | .inputSelect display => catalogOperation ddc rowInputSelect 0 display
  | .systemReset => catalogOperation ddc rowSystemReset 0 0
  | .selectLanguage language => catalogOperation ddc rowSelectLanguage 0 language
  | .getModelStr => catalogOperation ddc rowGetModelStr 0 0
  | .readEeprom adh adl => catalogOperation ddc rowReadEeprom adh adl
  | .readEdid => .edid

/-- The state a `build_frame` leaves: its frame is shown, nothing is in progress (R110, R114). -/
def builtState (d : Addr) (opc ap vp : Byte) (s : State) : State :=
  { s with
    latches := .empty
    builtFrame := some (frameBytes d opc ap vp)
    invalidParam := none
    history := s.history ++ [.accept (.build d opc ap vp), .built (frameBytes d opc ap vp)] }

/-- The state acceptance leaves on an idle block: a `build_frame` has returned, a bus operation has issued its write. -/
def takenState : Operation → State → State
  | .build d o a v, s => builtState d o a v s
  | .send d o a v n, s => acceptedState (.send d o a v n) ⟨d, frameBytes d o a v, Config.tSettleCmd, n⟩ s
  | .edid, s => acceptedState .edid ⟨Config.edidAddr, Config.edidPtr, Config.tSettleEdid, Config.edidLen⟩ s

theorem takenState_of_plan {op : Operation} {p : Plan} (h : planOf op = some p) (s : State) :
    takenState op s = acceptedState op p s := by
  cases op with
  | build => simp [planOf] at h
  | send => cases h; rfl
  | edid => cases h; rfl

/-- An idle block takes every well-formed operation, whatever else its state holds. -/
theorem exec_idle {i : Instr} {s : State} (hw : i.wellFormed = true) (hp : s.phase = .idle) :
    exec i s = .next (takenState (operationOf s.ddcAddr i) s) := by
  cases i <;>
    simp only [exec, execBuildFrame, execSendCommand, execInputSelect, execSystemReset, execSelectLanguage,
      execGetModelStr, execReadEeprom, execReadEdid, hostLayer_wellFormed hw, catalogCommand, buildOnly_next hp,
      sendCommand_next hp, readEdid_next hp] <;>
    rfl

/-- Every operation goes through the host layer with its own operands (R95). -/
theorem exec_eq_hostLayer (i : Instr) (s : State) : ∃ o, exec i s = hostLayer (portOperands i) s o := by
  cases i <;> exact ⟨_, rfl⟩

/-- An ill-formed operation is turned away with the same offending value in every state. -/
theorem exec_illFormed {i : Instr} (hw : i.wellFormed = false) : ∃ v, ∀ s, exec i s = .next (raiseInvalid v s) := by
  cases hf : firstInvalid (portOperands i) with
  | none => simp [(wellFormed_iff_firstInvalid i).2 hf] at hw
  | some v =>
    refine ⟨v, fun s => ?_⟩
    obtain ⟨o, ho⟩ := exec_eq_hostLayer i s
    simp [ho, hostLayer, hf]

/-! ## What a step can do, from any state -/

/-- The moves of one block, from any state, within the invariant or not (R139). What the latches have to do with the interval
and the accesses is left open here: within the invariant Laws/Sequencer.lean gives each of these moves exactly. -/
inductive Move (s : State) : State → Prop where
  | reset (hr : s.resetLine = true) : Move s s.hardReset
  | wait : Move s s
  | refuseOperand {p : Presented} {rest : List Presented} (hp : s.phase = .idle) (hh : s.host = p :: rest) (v : Nat) :
    Move s (raiseInvalid v { s with host := rest })
  | build {p : Presented} {rest : List Presented} (hp : s.phase = .idle) (hh : s.host = p :: rest)
    (d : Addr) (opc ap vp : Byte) : Move s (builtState d opc ap vp { s with host := rest })
  | accept {p : Presented} {rest : List Presented} {op : Operation} {pl : Plan} (hp : s.phase = .idle)
    (hh : s.host = p :: rest) (hpl : planOf op = some pl) : Move s (acceptedState op pl { s with host := rest })
  | returnAfterWrite {a : Addr} {bs : List Byte} {ans : WriteAnswer} {rest : List WriteAnswer} (hp : s.phase = .write)
    (hb : s.busReq = some (.write a bs)) (hw : s.writeAnswers = ans :: rest) (r : Result) :
    Move s (returnedState r [.write a bs ans] { s with writeAnswers := rest })
  | settle {a : Addr} {bs : List Byte} {rest : List WriteAnswer} (hp : s.phase = .write)
    (hb : s.busReq = some (.write a bs)) (hw : s.writeAnswers = .ok :: rest) (ms : Nat) :
    Move s (startSettle ms (({ s with busReq := none, writeAnswers := rest }).record (.write a bs .ok)))
  | issueRead {ms : Nat} (hp : s.phase = .settle) (ht : s.timer = some ms) (a : Addr) (n : Byte) :
    Move s (issueRead a n
      (({ s with timer := none, draws := s.draws + 1 }).record
        (.settleElapsed (settleDuration ms s.bus.number s.draws))))
  | returnAfterRead {a : Addr} {n : Byte} {r : DeviceRead} {rest : List DeviceRead} (hp : s.phase = .read)
    (hb : s.busReq = some (.read a n)) (hr : s.readAnswers = r :: rest) :
    Move s (returnedState (resultOfRead (r.answer n)) [.read a n (r.answer n)] { s with readAnswers := rest })

section
variable {s t : State}

/-- After a successful write the operation returns or starts its settle wait. -/
theorem afterWriteOk_cases (h : afterWriteOk s = .next t) :
    t = returnWith .okNoValue s ∨ ∃ ms, t = startSettle ms s := by
  obtain ⟨k, -, h⟩ := withValue_eq_next h
  cases k with
  | send =>
    obtain ⟨n, -, h⟩ := withValue_eq_next h
    split at h
    · left; cases h; rfl
    · right; cases h; exact ⟨_, rfl⟩
  | edid => right; cases h; exact ⟨_, rfl⟩

/-- After the settle interval a read is issued. -/
theorem afterSettle_cases (h : afterSettle s = .next t) : ∃ a n, t = issueRead a n s := by
  obtain ⟨k, -, h⟩ := withValue_eq_next h
  cases k with
  | send =>
    obtain ⟨d, -, h⟩ := withValue_eq_next h
    obtain ⟨n, -, h⟩ := withValue_eq_next h
    cases h; exact ⟨_, _, rfl⟩
  | edid => cases h; exact ⟨_, _, rfl⟩

theorem onIdle_move (hp : s.phase = .idle) (h : onIdle s = .next t) : Move s t := by
  cases hh : s.host with
  | nil => rw [onIdle_nothing hh] at h; cases h; exact .wait
  | cons p rest =>
    cases hd : decode p with
    | error r => rw [onIdle_undecodable hh hd] at h; cases h
    | ok i =>
      rw [onIdle_operation hh hd] at h
      rcases exec_cases i { s with host := rest } with
        ⟨v, hx⟩ | ⟨-, hx⟩ | ⟨-, d, o, a, v, hx⟩ | ⟨-, op, pl, hpl, hx⟩ <;> rw [hx] at h <;> cases h
      · exact .refuseOperand hp hh v
      · exact .build hp hh d o a v
      · exact .accept hp hh hpl

theorem onWrite_move (hp : s.phase = .write) (h : onWrite s = .next t) : Move s t := by
  by_cases hb : ∃ a bs, s.busReq = some (.write a bs)
  · obtain ⟨a, bs, hb⟩ := hb
    cases hw : s.writeAnswers with
    | nil => rw [onWrite_silent hw] at h; cases h; exact .wait
    | cons ans rest =>
      cases ans with
      | fail e => rw [onWrite_fail hb hw] at h; cases h; exact .returnAfterWrite hp hb hw _
      | ok =>
        rw [onWrite_ok hb hw] at h
        obtain rfl | ⟨ms, rfl⟩ := afterWriteOk_cases h
        · exact .returnAfterWrite hp hb hw _
        · exact .settle hp hb hw ms
  · rw [onWrite_noWrite hb] at h; cases h; exact .wait

theorem onSettle_move (hp : s.phase = .settle) (h : onSettle s = .next t) : Move s t := by
  cases ht : s.timer with
  | none => rw [onSettle_stopped ht] at h; cases h; exact .wait
  | some ms =>
    rw [onSettle_running ht] at h
    obtain ⟨a, n, rfl⟩ := afterSettle_cases h
    exact .issueRead hp ht a n

theorem onRead_move (hp : s.phase = .read) (h : onRead s = .next t) : Move s t := by
  by_cases hb : ∃ a n, s.busReq = some (.read a n)
  · obtain ⟨a, n, hb⟩ := hb
    cases hr : s.readAnswers with
    | nil => rw [onRead_silent hr] at h; cases h; exact .wait
    | cons r rest => rw [onRead_answered hb hr] at h; cases h; exact .returnAfterRead hp hb hr
  · rw [onRead_noRead hb] at h; cases h; exact .wait

/-- Every step that answers a next state is a move. -/
theorem step_move (h : step s = .next t) : Move s t := by
  cases hr : s.resetLine with
  | true => rw [step_reset hr] at h; cases h; exact .reset hr
  | false =>
    cases hp : s.phase with
    | idle => exact onIdle_move hp (step_idle hr hp ▸ h)
    | write => exact onWrite_move hp (step_write hr hp ▸ h)
    | settle => exact onSettle_move hp (step_settle hr hp ▸ h)
    | read => exact onRead_move hp (step_read hr hp ▸ h)

end

/-! ## What a step of a block of the invariant does -/

/-- The step answers a state of the invariant. -/
def KeepsInv (o : Out) : Prop := ∃ t, o = .next t ∧ BlockInv t

section
variable {s : State}

theorem blockInv_idle (hi : BlockInv s) (hp : s.phase = .idle) :
    s.latches = .empty ∧ s.busLock = false ∧ s.timer = none ∧ s.busReq = none := by
  simpa [BlockInv, hp] using hi

/-- The invariant of an idle block does not look at what the host presents. -/
theorem blockInv_host_of_idle (hi : BlockInv s) (hp : s.phase = .idle) (rest : List Presented) :
    BlockInv { s with host := rest } := by
  simpa [BlockInv, hp] using hi

theorem blockInv_write (hi : BlockInv s) (hp : s.phase = .write) :
    ∃ op p, InProgress op p s ∧ s.busReq = some (.write p.addr p.bytes) ∧ s.timer = none := by
  simpa [BlockInv, hp] using hi

theorem blockInv_settle (hi : BlockInv s) (hp : s.phase = .settle) :
    ∃ op p, InProgress op p s ∧ p.replyLength ≠ 0 ∧ s.busReq = none ∧ s.timer = some p.interval := by
  simpa [BlockInv, hp] using hi

theorem blockInv_read (hi : BlockInv s) (hp : s.phase = .read) :
    ∃ op p, InProgress op p s ∧ p.replyLength ≠ 0 ∧ s.busReq = some (.read p.addr p.replyLength) ∧
      s.timer = none := by
  simpa [BlockInv, hp] using hi

theorem blockInv_returnedState (r : Result) (es : List Event) : BlockInv (returnedState r es s) :=
  ⟨rfl, rfl, rfl, rfl⟩

theorem blockInv_hardReset : BlockInv s.hardReset := ⟨rfl, rfl, rfl, rfl⟩

/-- An operation an idle block is offered either is turned away, or returns its frame, or is in progress. -/
theorem exec_keepsInv (i : Instr) (hi : BlockInv s) (hp : s.phase = .idle) : KeepsInv (exec i s) := by
  obtain ⟨hl, hk, ht, hb⟩ := blockInv_idle hi hp
  rcases exec_cases i s with ⟨v, hx⟩ | ⟨hn, -⟩ | ⟨-, d, o, a, v, hx⟩ | ⟨-, op, p, hpl, hx⟩
  · exact ⟨_, hx, by simp [BlockInv, hp, hl, hk, ht, hb]⟩
  · exact absurd hp hn
  · exact ⟨_, hx, by simp [BlockInv, hp, hk, ht, hb]⟩
  · exact ⟨_, hx, op, p, ⟨hpl, rfl, rfl, rfl⟩, rfl, ht⟩

theorem onWrite_keepsInv (hi : BlockInv s) (hp : s.phase = .write) : KeepsInv (onWrite s) := by
  obtain ⟨op, p, ho, hb, ht⟩ := blockInv_write hi hp
  cases hw : s.writeAnswers with
  | nil => exact ⟨s, onWrite_silent hw, hi⟩
  | cons ans rest =>
    cases ans with
    | fail e => exact ⟨_, onWrite_fail hb hw, blockInv_returnedState _ _⟩
    | ok =>
      by_cases hn : p.replyLength = 0
      · exact ⟨_, onWrite_ok_last ho hb hw hn, blockInv_returnedState _ _⟩
      · exact ⟨_, onWrite_ok_settle ho hb hw hn, op, p, ⟨ho.plan, ho.latches, ho.lock, ho.result⟩, hn, rfl, rfl⟩

theorem onSettle_keepsInv (hi : BlockInv s) (hp : s.phase = .settle) : KeepsInv (onSettle s) := by
  obtain ⟨op, p, ho, hn, -, ht⟩ := blockInv_settle hi hp
  exact ⟨_, onSettle_inProgress ho ht, op, p, ⟨ho.plan, ho.latches, ho.lock, ho.result⟩, hn, rfl, rfl⟩

theorem onRead_keepsInv (hi : BlockInv s) (hp : s.phase = .read) : KeepsInv (onRead s) := by
  obtain ⟨op, p, -, -, hb, -⟩ := blockInv_read hi hp
  cases hr : s.readAnswers with
  | nil => exact ⟨s, onRead_silent hr, hi⟩
  | cons r rest => exact ⟨_, onRead_answered hb hr, blockInv_returnedState _ _⟩

/-- Progress and preservation at once: a block of the invariant steps to a state of the invariant, unless it is idle and
what the host presents is no operation. -/
theorem step_keepsInv (hi : BlockInv s) :
    KeepsInv (step s) ∨
    (s.phase = .idle ∧ ∃ p rest r, s.host = p :: rest ∧ decode p = .error r ∧ step s = .refused (.undecodable r)) := by
  cases hr : s.resetLine with
  | true => exact .inl ⟨_, step_reset hr, blockInv_hardReset⟩
  | false =>
    cases hp : s.phase with
    | write => rw [step_write hr hp]; exact .inl (onWrite_keepsInv hi hp)
    | settle => rw [step_settle hr hp]; exact .inl (onSettle_keepsInv hi hp)
    | read => rw [step_read hr hp]; exact .inl (onRead_keepsInv hi hp)
    | idle =>
      rw [step_idle hr hp]
      cases hh : s.host with
      | nil => exact .inl ⟨s, onIdle_nothing hh, hi⟩
      | cons p rest =>
        cases hd : decode p with
        | error r => exact .inr ⟨rfl, p, rest, r, rfl, hd, onIdle_undecodable hh hd⟩
        | ok i =>
          rw [onIdle_operation hh hd]
          exact .inl (exec_keepsInv i (blockInv_host_of_idle hi hp rest) hp)

end

/-- Settles O40: by `step_keepsInv`, one case per phase of the sequencer. -/
theorem everyStepKeepsTheInvariant : Obligations.EveryStepKeepsTheInvariant := by
  intro s t hi h
  obtain ⟨u, hu, hinv⟩ | ⟨-, -, -, r, -, -, hr⟩ := step_keepsInv hi
  · rw [h] at hu; cases hu; exact hinv
  · rw [h] at hr; cases hr

/-- Settles O42: by `step_keepsInv`, whose only other case is the refusal by name. -/
theorem noStepReadsALatchWithoutAValue : Obligations.NoStepReadsALatchWithoutAValue := by
  intro s hi
  exact (step_keepsInv hi).imp_left fun ⟨t, ht, _⟩ => ⟨t, ht⟩

/-- Settles O32: of the moves only acceptance and the two returns touch `RESULT`. -/
theorem resultChangesOnlyAtAcceptanceAndReturn : Obligations.ResultChangesOnlyAtAcceptanceAndReturn := by
  intro s t hr h
  cases step_move h with
  | reset h' => simp [hr] at h'
  | wait => exact .inl rfl
  | refuseOperand => exact .inl rfl
  | build => exact .inl rfl
  | accept hp => exact .inr (.inl ⟨hp, rfl, rfl⟩)
  | returnAfterWrite hp => exact .inr (.inr ⟨by simp [hp], rfl, rfl⟩)
  | settle => exact .inl rfl
  | issueRead => exact .inl rfl
  | returnAfterRead hp => exact .inr (.inr ⟨by simp [hp], rfl, rfl⟩)

/-- Settles O45: no move writes `DDC_ADDR` or `BUS`. -/
theorem instanceParametersNeverChange : Obligations.InstanceParametersNeverChange := by
  intro s t h
  cases step_move h <;> exact ⟨rfl, rfl⟩

/-! ## Runs -/

theorem run_succ (k : Nat) (s : State) : run (k + 1) s = andThen (step s) (run k) := by
  cases h : step s <;> simp [run, Host.Core.run, core, h]

/-- By induction on the length: each step keeps the invariant, or is the refusal by name. -/
theorem run_ne_fault (k : Nat) (f : Fault) : ∀ s, BlockInv s → run k s ≠ .fault f := by
  induction k with
  | zero => intro s _ h; cases h
  | succ k ih =>
    intro s hi
    rw [run_succ]
    obtain ⟨t, ht, hinv⟩ | ⟨-, -, -, r, -, -, hr⟩ := step_keepsInv hi
    · rw [ht, andThen_next]; exact ih t hinv
    · rw [hr, andThen_refused]; exact fun h => nomatch h

/-- Settles O50: what `exec` can do holds no fault, and every step of a run keeps the invariant. -/
theorem noInstructionAndNoRunEndsInAFault : Obligations.NoInstructionAndNoRunEndsInAFault := by
  refine ⟨fun i s => ?_, fun s k f hi => run_ne_fault k f s hi⟩
  cases hw : i.wellFormed with
  | false =>
    obtain ⟨v, hv⟩ := exec_illFormed hw
    exact .inl ⟨_, hv s⟩
  | true =>
    rcases exec_cases i s with ⟨v, hx⟩ | ⟨hp, hx⟩ | ⟨-, d, o, a, v, hx⟩ | ⟨-, op, p, -, hx⟩
    · exact .inl ⟨_, hx⟩
    · exact .inr ⟨hp, rfl, hx⟩
    · exact .inl ⟨_, hx⟩
    · exact .inl ⟨_, hx⟩

/-! ## The history is an output: a step commutes with putting events before it -/

/-- A state with `past` before its own history. -/
def addPast (past : List Event) (s : State) : State := { s with history := past ++ s.history }

/-- An outcome with `past` before the history of its state. -/
def addPastOutcome (past : List Event) : Out → Out
  | .next s => .next (addPast past s)
  | .fault r => .fault r
  | .refused r => .refused r

section
variable (past : List Event) (s : State)

@[simp] theorem addPastOutcome_next : addPastOutcome past (.next s) = .next (addPast past s) := rfl

theorem forgetOutcome_addPastOutcome (o : Out) : forgetOutcome (addPastOutcome past o) = forgetOutcome o := by
  cases o <;> rfl

theorem addPast_forgetHistory : addPast s.history (forgetHistory s) = s := by
  simp [addPast, forgetHistory]

theorem record_addPast (e : Event) : (addPast past s).record e = addPast past (s.record e) := by
  simp [addPast, State.record]

theorem returnWith_addPast (r : Result) : returnWith r (addPast past s) = addPast past (returnWith r s) :=
  record_addPast past { s.quiesce with result := some r } _

theorem raiseInvalid_addPast (v : Nat) : raiseInvalid v (addPast past s) = addPast past (raiseInvalid v s) :=
  record_addPast past { s with invalidParam := some v } _

theorem hardReset_addPast : (addPast past s).hardReset = addPast past s.hardReset :=
  record_addPast past
    { s.quiesce with result := none, builtFrame := none, invalidParam := none, resetLine := false } _

theorem returnedState_addPast (r : Result) (es : List Event) :
    returnedState r es (addPast past s) = addPast past (returnedState r es s) := by
  simp [returnedState, addPast]

theorem takenState_addPast (op : Operation) : takenState op (addPast past s) = addPast past (takenState op s) := by
  cases op <;> simp [takenState, builtState, acceptedState, addPast]

theorem withValue_addPast {α : Type} (l : LatchName) (held : Option α) {f g : α → Out}
    (h : ∀ v, f v = addPastOutcome past (g v)) : withValue l held f = addPastOutcome past (withValue l held g) := by
  cases held with
  | none => rfl
  | some v => exact h v

theorem exec_addPast (i : Instr) (hp : s.phase = .idle) :
    exec i (addPast past s) = addPastOutcome past (exec i s) := by
  cases hw : i.wellFormed with
  | false =>
    obtain ⟨v, hv⟩ := exec_illFormed hw
    rw [hv, hv, raiseInvalid_addPast, addPastOutcome_next]
  | true =>
    rw [exec_idle hw hp, exec_idle hw (s := addPast past s) hp, takenState_addPast, addPastOutcome_next]
    rfl

theorem onIdle_addPast (hp : s.phase = .idle) : onIdle (addPast past s) = addPastOutcome past (onIdle s) := by
  cases hh : s.host with
  | nil => rw [onIdle_nothing hh, onIdle_nothing (s := addPast past s) hh]; rfl
  | cons p rest =>
    cases hd : decode p with
    | error r => rw [onIdle_undecodable hh hd, onIdle_undecodable (s := addPast past s) hh hd]; rfl
    | ok i =>
      rw [onIdle_operation hh hd, onIdle_operation (s := addPast past s) hh hd]
      exact exec_addPast past { s with host := rest } i hp

theorem afterWriteOk_addPast : afterWriteOk (addPast past s) = addPastOutcome past (afterWriteOk s) := by
  refine withValue_addPast past _ _ fun k => ?_
  cases k with
  | send =>
    refine withValue_addPast past _ _ fun n => ?_
    by_cases hn : n = 0
    · simp [hn, returnWith_addPast]
    · simp only [hn, if_false]; rfl
  | edid => rfl

theorem afterSettle_addPast : afterSettle (addPast past s) = addPastOutcome past (afterSettle s) := by
  refine withValue_addPast past _ _ fun k => ?_
  cases k with
  | send => exact withValue_addPast past _ _ fun d => withValue_addPast past _ _ fun n => rfl
  | edid => rfl

theorem onWrite_addPast : onWrite (addPast past s) = addPastOutcome past (onWrite s) := by
  by_cases hb : ∃ a bs, s.busReq = some (.write a bs)
  · obtain ⟨a, bs, hb⟩ := hb
    cases hw : s.writeAnswers with
    | nil => rw [onWrite_silent hw, onWrite_silent (s := addPast past s) hw]; rfl
    | cons ans rest =>
      cases ans with
      | fail e =>
        rw [onWrite_fail hb hw, onWrite_fail (s := addPast past s) hb hw, addPastOutcome_next,
          ← returnedState_addPast]
        rfl
      | ok =>
        rw [onWrite_ok hb hw, onWrite_ok (s := addPast past s) hb hw, ← afterWriteOk_addPast, ← record_addPast]
        rfl
  · rw [onWrite_noWrite hb, onWrite_noWrite (s := addPast past s) hb]; rfl

theorem onSettle_addPast : onSettle (addPast past s) = addPastOutcome past (onSettle s) := by
  cases ht : s.timer with
  | none => rw [onSettle_stopped ht, onSettle_stopped (s := addPast past s) ht]; rfl
  | some ms =>
    rw [onSettle_running ht, onSettle_running (s := addPast past s) ht, ← afterSettle_addPast, ← record_addPast]
    rfl

theorem onRead_addPast : onRead (addPast past s) = addPastOutcome past (onRead s) := by
  by_cases hb : ∃ a n, s.busReq = some (.read a n)
  · obtain ⟨a, n, hb⟩ := hb
    cases hr : s.readAnswers with
    | nil => rw [onRead_silent hr, onRead_silent (s := addPast past s) hr]; rfl
    | cons r rest =>
      rw [onRead_answered hb hr, onRead_answered (s := addPast past s) hb hr, addPastOutcome_next,
        ← returnedState_addPast]
      rfl
  · rw [onRead_noRead hb, onRead_noRead (s := addPast past s) hb]; rfl

theorem step_addPast : step (addPast past s) = addPastOutcome past (step s) := by
  cases hr : s.resetLine with
  | true => rw [step_reset hr, step_reset (s := addPast past s) hr, hardReset_addPast]; rfl
  | false =>
    cases hp : s.phase with
    | idle => rw [step_idle hr hp, step_idle (s := addPast past s) hr hp, onIdle_addPast past s hp]
    | write => rw [step_write hr hp, step_write (s := addPast past s) hr hp, onWrite_addPast]
    | settle => rw [step_settle hr hp, step_settle (s := addPast past s) hr hp, onSettle_addPast]
    | read => rw [step_read hr hp, step_read (s := addPast past s) hr hp, onRead_addPast]

theorem run_addPast (k : Nat) : run k (addPast past s) = addPastOutcome past (run k s) := by
  induction k generalizing s with
  | zero => rfl
  | succ k ih =>
    rw [run_succ, run_succ, step_addPast]
    cases step s with
    | next t => exact ih t
    | fault r => rfl
    | refused r => rfl

end

/-- Settles O46: a state is its forgotten self with its own history put before it, and a step commutes with that. -/
theorem historyIsNeverReadAndOnlyGrows : Obligations.HistoryIsNeverReadAndOnlyGrows := by
  have step_eq (s : State) : step s = addPastOutcome s.history (step (forgetHistory s)) := by
    rw [← step_addPast, addPast_forgetHistory]
  refine ⟨fun s => ?_, fun s t h => ?_⟩
  · rw [step_eq s, forgetOutcome_addPastOutcome]
  · rw [step_eq s] at h
    cases hf : step (forgetHistory s) with
    | next u => rw [hf] at h; cases h; exact ⟨u.history, rfl⟩
    | fault r => rw [hf] at h; cases h
    | refused r => rw [hf] at h; cases h

/-! ## Runs of states that differ in what an earlier operation left -/

/-- A run does the same from two states that differ in their history only. -/
theorem run_congr {s s' : State} (h : forgetHistory s = forgetHistory s') (k : Nat) :
    forgetOutcome (run k s) = forgetOutcome (run k s') := by
  rw [← addPast_forgetHistory s, ← addPast_forgetHistory s', run_addPast, run_addPast, h,
    forgetOutcome_addPastOutcome, forgetOutcome_addPastOutcome]

/-- A state without what an earlier operation left: its outcome, its frame, its records, its history. -/
def forgetEarlier (s : State) : State :=
  { s with result := none, builtFrame := none, invalidParam := none, history := [] }

/-- Two idle blocks of the invariant with the same parameters, inputs and draws differ only in what is forgotten. -/
theorem forgetEarlier_eq_of_idle {s s' : State} (hi : BlockInv s) (hi' : BlockInv s') (hp : s.phase = .idle)
    (hp' : s'.phase = .idle) (hddc : s.ddcAddr = s'.ddcAddr) (hbus : s.bus = s'.bus)
    (hreset : s.resetLine = s'.resetLine) (hhost : s.host = s'.host) (hw : s.writeAnswers = s'.writeAnswers)
    (hr : s.readAnswers = s'.readAnswers) (hd : s.draws = s'.draws) : forgetEarlier s = forgetEarlier s' := by
  obtain ⟨hl, hk, ht, hb⟩ := blockInv_idle hi hp
  obtain ⟨hl', hk', ht', hb'⟩ := blockInv_idle hi' hp'
  simp only [forgetEarlier, hp, hp', hl, hl', hk, hk', ht, ht', hb, hb', hddc, hbus, hreset, hhost, hw, hr, hd]

/-- Acceptance of a bus operation overwrites all that an earlier one left, but the history. -/
theorem forgetHistory_acceptedState (op : Operation) (p : Plan) (s : State) :
    forgetHistory (acceptedState op p s) = forgetHistory (acceptedState op p (forgetEarlier s)) := rfl

/-- A `build_frame` overwrites all that an earlier operation left, but `RESULT` and the history. -/
theorem forgetHistory_builtState (d : Addr) (opc ap vp : Byte) (s : State) :
    forgetHistory { builtState d opc ap vp s with result := none } =
      forgetHistory (builtState d opc ap vp (forgetEarlier s)) := rfl

/-- Every instruction but `build_frame` is accepted as a bus operation. -/
theorem planOf_operationOf (ddc : Addr) {i : Instr} (h : ∀ dest opcode ap vp, i ≠ .buildFrame dest opcode ap vp) :
    ∃ p, planOf (operationOf ddc i) = some p := by
  cases i with
  | buildFrame dest opcode ap vp => exact absurd rfl (h dest opcode ap vp)
  | _ => exact ⟨_, rfl⟩

/-- Settles O47: acceptance is a function of the operation it accepts and of what `forgetEarlier` keeps; from there on the
two blocks differ in their history only, which no run reads. -/
theorem noOperationDependsOnAnEarlierOne : Obligations.NoOperationDependsOnAnEarlierOne := by
  intro s s' i hi hi' hp hp' hwf hddc hbus hreset hhost hw hr hd
  have hs := forgetEarlier_eq_of_idle hi hi' hp hp' hddc hbus hreset hhost hw hr hd
  refine ⟨_, _, exec_idle hwf hp, exec_idle hwf hp', fun hne => ?_, ?_⟩
  · obtain ⟨p, hpl⟩ := planOf_operationOf s'.ddcAddr hne
    have ht : forgetHistory (acceptedState (operationOf s'.ddcAddr i) p s) =
        forgetHistory (acceptedState (operationOf s'.ddcAddr i) p s') := by
      rw [forgetHistory_acceptedState, hs, ← forgetHistory_acceptedState]
    rw [hddc, takenState_of_plan hpl, takenState_of_plan hpl]
    exact ⟨ht, run_congr ht⟩
  · rintro ⟨dest, opcode, ap, vp, rfl⟩
    refine ⟨?_, rfl, rfl, rfl⟩
    simp only [operationOf, takenState]
    rw [forgetHistory_builtState, hs, ← forgetHistory_builtState]

/-! ## Reset -/

/-- Settles O38: each entry of the table is the value the definition gives. -/
theorem resetStateIsTheTable : Obligations.ResetStateIsTheTable := by
  refine ⟨fun ddc b => ⟨rfl, rfl, rfl, rfl, rfl, rfl, rfl, rfl, ?_⟩, rfl, ?_, ?_, fun s r => ?_⟩
  · rw [step_idle rfl rfl, onIdle_nothing rfl]
  · exact ⟨rfl, rfl, rfl, rfl, rfl, rfl, rfl, rfl, by decide, rfl⟩
  · exact ⟨rfl, by decide, rfl, rfl, rfl, rfl, rfl, rfl⟩
  · exact ⟨rfl, rfl, rfl, rfl, rfl, rfl, rfl, rfl⟩

/-- Settles O39: the reset state is idle with nothing held, and its history is empty. -/
theorem resetMeetsTheInvariants : Obligations.ResetMeetsTheInvariants := by
  intro ddc b
  exact ⟨⟨rfl, rfl, rfl, rfl⟩, .ready, rfl, rfl⟩

end Sys2Proof.Proofs
end

section
/-! SUPPORT. The events a step adds to the history, what a busy block does with the answers of the bus and with what the host
presents, and what several instances do side by side; and the obligations of the memory family (spec 20_memory.md). -/

namespace Sys2Proof.Proofs

open Sys2Proof.Machine Sys2Proof.Safety

/-! ## Histories that grow in order -/

theorem replay_append (es fs : List Event) (st : Stage) :
    replay st (es ++ fs) = (replay st es).bind fun st' => replay st' fs := by
  induction es generalizing st with
  | nil => rfl
  | cons e es ih =>
    simp only [List.cons_append, replay]
    cases advance st e with
    | none => rfl
    | some st' => exact ih st'

theorem advance_write (p : Plan) (ans : WriteAnswer) :
    advance (.writing p) (.write p.addr p.bytes ans) = some (.afterWrite p ans) := by
  simp [advance]

theorem advance_settle (p : Plan) (bus draw : Nat) :
    advance (.settling p) (.settleElapsed (settleDuration p.interval bus draw)) = some (.reading p) := by
  simp [advance, settleDuration_ge]

theorem advance_read (p : Plan) (ans : ReadAnswer p.replyLength) :
    advance (.reading p) (.read p.addr p.replyLength ans) = some (.returning (resultOfRead ans)) := by
  simp [advance]

theorem advance_ret (r : Result) : advance (.returning r) (.ret r) = some .ready := by simp [advance]

theorem replay_build (d : Addr) (opc ap vp : Byte) :
    replay .ready [.accept (.build d opc ap vp), .built (frameBytes d opc ap vp)] = some .ready := by
  simp [replay, advance]

theorem advance_accept {op : Operation} {p : Plan} (h : planOf op = some p) :
    advance .ready (.accept op) = some (.writing p) := by
  cases op with
  | build => simp [planOf] at h
  | send => exact congrArg (Option.map Stage.writing) h
  | edid => exact congrArg (Option.map Stage.writing) h

/-- Only one bus operation loads given latches. -/
theorem latchesOf_inj {op op' : Operation} {p p' : Plan} (h : planOf op = some p) (h' : planOf op' = some p')
    (hl : latchesOf op = latchesOf op') : op = op' := by
  cases op with
  | build => simp [planOf] at h
  | send =>
    cases op' with
    | build => simp [planOf] at h'
    | send => simp_all [latchesOf]
    | edid => simp [latchesOf, Latches.forEdid] at hl
  | edid =>
    cases op' with
    | build => simp [planOf] at h'
    | send => simp [latchesOf, Latches.forEdid] at hl
    | edid => rfl

section
variable {s t : State} {op op' : Operation} {p p' : Plan}

theorem plan_unique (h : InProgress op p s) (h' : InProgress op' p' s) : p = p' := by
  have hop : op = op' := latchesOf_inj h.plan h'.plan (h.latches.symm.trans h'.latches)
  subst hop
  exact Option.some.inj (h.plan.symm.trans h'.plan)

/-- A history stays in order when the events added to it lead from its stage to the one the new state is at. -/
theorem inOrder_of_append {st st' : Stage} {es : List Event} (hs : replay .ready s.history = some st)
    (ht : t.history = s.history ++ es) (he : replay st es = some st') (hst : AtStage t st') : InOrder t :=
  ⟨st', by rw [ht, replay_append, hs]; exact he, hst⟩

theorem atStage_idle (hp : s.phase = .idle) : AtStage s .ready := by simp [AtStage, hp]

theorem atStage_write (hp : s.phase = .write) (ho : InProgress op p s) : AtStage s (.writing p) := by
  simp only [AtStage, hp]; exact ⟨op, p, ho, rfl⟩

theorem atStage_settle (hp : s.phase = .settle) (ho : InProgress op p s) : AtStage s (.settling p) := by
  simp only [AtStage, hp]; exact ⟨op, p, ho, rfl⟩

theorem atStage_read (hp : s.phase = .read) (ho : InProgress op p s) : AtStage s (.reading p) := by
  simp only [AtStage, hp]; exact ⟨op, p, ho, rfl⟩

/-- The phase and the latches of a state tell the stage it is at. -/
theorem atStage_unique {st st' : Stage} (h : AtStage s st) (h' : AtStage s st') : st = st' := by
  have busy_unique {f : Plan → Stage} (h : ∃ op p, InProgress op p s ∧ st = f p)
      (h' : ∃ op p, InProgress op p s ∧ st' = f p) : st = st' := by
    obtain ⟨_, _, ho, rfl⟩ := h
    obtain ⟨_, _, ho', rfl⟩ := h'
    rw [plan_unique ho ho']
  cases hp : s.phase <;> simp only [AtStage, hp] at h h'
  case idle => rw [h, h']
  all_goals exact busy_unique h h'

theorem replay_of_atStage {st : Stage} (h : InOrder s) (hst : AtStage s st) : replay .ready s.history = some st := by
  obtain ⟨st', hr, hst'⟩ := h
  rw [hr, atStage_unique hst' hst]

/-! ## The events each phase adds -/

/-- The write's answer is taken, and the events that follow it lead to the stage the answer calls for (R133 to R135). -/
theorem onWrite_answered {ans : WriteAnswer} {rest : List WriteAnswer} (ho : InProgress op p s)
    (hb : s.busReq = some (.write p.addr p.bytes)) (hw : s.writeAnswers = ans :: rest) :
    ∃ t es st, onWrite s = .next t ∧ t.writeAnswers = rest ∧
      t.history = s.history ++ .write p.addr p.bytes ans :: es ∧
      replay (.afterWrite p ans) es = some st ∧ AtStage t st := by
  cases ans with
  | fail e =>
    exact ⟨_, [.ret (.err .busWriteFailed e)], .ready, onWrite_fail hb hw, rfl, by simp [returnedState],
      by simp [replay, Stage.afterWrite, advance_ret], rfl⟩
  | ok =>
    by_cases hn : p.replyLength = 0
    · exact ⟨_, [.ret .okNoValue], .ready, onWrite_ok_last ho hb hw hn, rfl, by simp [returnedState],
        by simp [replay, Stage.afterWrite, hn, advance_ret], rfl⟩
    · exact ⟨_, [], .settling p, onWrite_ok_settle ho hb hw hn, rfl, rfl, by simpa [replay, Stage.afterWrite] using hn,
        op, p, ⟨ho.plan, ho.latches, ho.lock, ho.result⟩, rfl⟩

theorem onWrite_inOrder (hi : BlockInv s) (h : InOrder s) (hp : s.phase = .write) (hs : onWrite s = .next t) :
    InOrder t := by
  obtain ⟨op, p, ho, hb, -⟩ := blockInv_write hi hp
  cases hw : s.writeAnswers with
  | nil => rw [onWrite_silent hw] at hs; cases hs; exact h
  | cons ans rest =>
    obtain ⟨t', es, st, ht, -, hh, he, hst⟩ := onWrite_answered ho hb hw
    rw [ht] at hs; cases hs
    exact inOrder_of_append (replay_of_atStage h (atStage_write hp ho)) hh
      (by simpa only [replay, advance_write] using he) hst

theorem onSettle_inOrder (hi : BlockInv s) (h : InOrder s) (hp : s.phase = .settle) (hs : onSettle s = .next t) :
    InOrder t := by
  obtain ⟨op, p, ho, -, -, ht⟩ := blockInv_settle hi hp
  rw [onSettle_inProgress ho ht] at hs; cases hs
  exact inOrder_of_append (replay_of_atStage h (atStage_settle hp ho)) rfl (by simp only [replay, advance_settle])
    ⟨op, p, ⟨ho.plan, ho.latches, ho.lock, ho.result⟩, rfl⟩

theorem onRead_inOrder (hi : BlockInv s) (h : InOrder s) (hp : s.phase = .read) (hs : onRead s = .next t) :
    InOrder t := by
  obtain ⟨op, p, ho, -, hb, -⟩ := blockInv_read hi hp
  cases hr : s.readAnswers with
  | nil => rw [onRead_silent hr] at hs; cases hs; exact h
  | cons r rest =>
    rw [onRead_answered hb hr] at hs; cases hs
    exact inOrder_of_append (replay_of_atStage h (atStage_read hp ho)) (List.append_assoc _ _ _)
      (by simp [replay, advance_read, advance_ret]) rfl

/-- What an idle block is offered is turned away, or returns its frame, or is accepted. -/
theorem exec_inOrder {i : Instr} (h : InOrder s) (hp : s.phase = .idle) (hs : exec i s = .next t) : InOrder t := by
  have hready := replay_of_atStage h (atStage_idle hp)
  rcases exec_cases i s with ⟨v, hx⟩ | ⟨hn, -⟩ | ⟨-, d, o, a, v, hx⟩ | ⟨-, op, p, hpl, hx⟩
  · rw [hx] at hs; cases hs
    exact inOrder_of_append (st' := .ready) hready rfl rfl (atStage_idle hp)
  · exact absurd hp hn
  · rw [hx] at hs; cases hs
    exact inOrder_of_append hready rfl (replay_build d o a v) (atStage_idle hp)
  · rw [hx] at hs; cases hs
    exact inOrder_of_append hready rfl (by simp only [replay, advance_accept hpl])
      ⟨op, p, ⟨hpl, rfl, rfl, rfl⟩, rfl⟩

theorem onIdle_inOrder (h : InOrder s) (hp : s.phase = .idle) (hs : onIdle s = .next t) : InOrder t := by
  cases hh : s.host with
  | nil => rw [onIdle_nothing hh] at hs; cases hs; exact h
  | cons p rest =>
    cases hd : decode p with
    | error r => rw [onIdle_undecodable hh hd] at hs; cases hs
    | ok i =>
      rw [onIdle_operation hh hd] at hs
      have hready := replay_of_atStage h (atStage_idle hp)
      have hrest : InOrder { s with host := rest } := ⟨.ready, hready, atStage_idle hp⟩
      exact exec_inOrder hrest hp hs

/-- A hardware reset may come at any stage. -/
theorem hardReset_inOrder (h : InOrder s) : InOrder s.hardReset := by
  obtain ⟨st, hst, -⟩ := h
  exact inOrder_of_append hst rfl (by simp [replay, advance]) rfl

end

/-- Settles O41: one case per phase; in each the invariant fixes the operation in progress, hence the stage the history has
reached, and the events the step adds lead on from there. -/
theorem everyStepKeepsTheOrderOfEvents : Obligations.EveryStepKeepsTheOrderOfEvents := by
  intro s t hi ho h
  cases hr : s.resetLine with
  | true => rw [step_reset hr] at h; cases h; exact hardReset_inOrder ho
  | false =>
    cases hp : s.phase with
    | idle => exact onIdle_inOrder ho hp (step_idle hr hp ▸ h)
    | write => exact onWrite_inOrder hi ho hp (step_write hr hp ▸ h)
    | settle => exact onSettle_inOrder hi ho hp (step_settle hr hp ▸ h)
    | read => exact onRead_inOrder hi ho hp (step_read hr hp ▸ h)

/-! ## The access outstanding at the bus port -/

section
variable {s : State}

theorem blockInv_busWrite {a : Addr} {bs : List Byte} (hi : BlockInv s) (hb : s.busReq = some (.write a bs)) :
    s.phase = .write ∧ ∃ op p, InProgress op p s ∧ p.addr = a ∧ p.bytes = bs := by
  cases hp : s.phase with
  | idle => obtain ⟨-, -, -, hb'⟩ := blockInv_idle hi hp; simp [hb] at hb'
  | write =>
    obtain ⟨op, p, ho, hb', -⟩ := blockInv_write hi hp
    rw [hb] at hb'; cases hb'
    exact ⟨rfl, op, p, ho, rfl, rfl⟩
  | settle => obtain ⟨_, _, -, -, hb', -⟩ := blockInv_settle hi hp; simp [hb] at hb'
  | read => obtain ⟨_, _, -, -, hb', -⟩ := blockInv_read hi hp; simp [hb] at hb'

theorem blockInv_busRead {a : Addr} {n : Byte} (hi : BlockInv s) (hb : s.busReq = some (.read a n)) :
    s.phase = .read ∧ n ≠ 0 := by
  cases hp : s.phase with
  | idle => obtain ⟨-, -, -, hb'⟩ := blockInv_idle hi hp; simp [hb] at hb'
  | write => obtain ⟨_, _, -, hb', -⟩ := blockInv_write hi hp; simp [hb] at hb'
  | settle => obtain ⟨_, _, -, -, hb', -⟩ := blockInv_settle hi hp; simp [hb] at hb'
  | read =>
    obtain ⟨op, p, -, hn, hb', -⟩ := blockInv_read hi hp
    rw [hb] at hb'; cases hb'
    exact ⟨rfl, hn⟩

theorem blockInv_busLock (hi : BlockInv s) : s.busLock = s.busy := by
  cases hp : s.phase with
  | idle => obtain ⟨-, hk, -, -⟩ := blockInv_idle hi hp; simp [State.busy, hp, hk]
  | write => obtain ⟨_, _, ho, -⟩ := blockInv_write hi hp; simp [State.busy, hp, ho.lock]
  | settle => obtain ⟨_, _, ho, -⟩ := blockInv_settle hi hp; simp [State.busy, hp, ho.lock]
  | read => obtain ⟨_, _, ho, -⟩ := blockInv_read hi hp; simp [State.busy, hp, ho.lock]

end

/-- Every answer to a read is what some device gives (R57). -/
theorem answer_surjective {n : Byte} (ans : ReadAnswer n) : ∃ r : DeviceRead, r.answer n = ans := by
  cases ans with
  | ok bytes =>
    obtain ⟨supply, h⟩ := firstBytes_surjective n bytes
    exact ⟨.delivers supply, congrArg ReadAnswer.ok h⟩
  | fail e => exact ⟨.fails e, rfl⟩

/-- Settles O29: the environment that has just the given answer to offer is the one asked for. -/
theorem everyAnswerOfTheBusIsAdmitted : Obligations.EveryAnswerOfTheBusIsAdmitted := by
  refine fun s hi hr => ⟨fun a bs w hb => ?_, fun a n ans hb => ?_⟩
  · obtain ⟨hp, op, p, ho, rfl, rfl⟩ := blockInv_busWrite hi hb
    have ho' : InProgress op p { s with writeAnswers := [w] } := ⟨ho.plan, ho.latches, ho.lock, ho.result⟩
    obtain ⟨t, es, -, ht, hw, hh, -, -⟩ := onWrite_answered ho' hb rfl
    exact ⟨t, (step_write (s := { s with writeAnswers := [w] }) hr hp).trans ht, by simp [hh], hw⟩
  · obtain ⟨hp, -⟩ := blockInv_busRead hi hb
    obtain ⟨r, rfl⟩ := answer_surjective ans
    exact ⟨r, (step_read (s := { s with readAnswers := [r] }) hr hp).trans (onRead_answered hb rfl)⟩

/-- Settles O43: the outstanding access is the plan's, whose shape `planOf_shape` gives. -/
theorem busRequestsHaveTheContractsShape : Obligations.BusRequestsHaveTheContractsShape := by
  refine fun s hi => ⟨blockInv_busLock hi, fun a bs hb => ?_, fun a n hb => ?_⟩
  · obtain ⟨hp, op, p, ho, rfl, rfl⟩ := blockInv_busWrite hi hb
    exact ⟨hp, (planOf_shape ho.plan).1⟩
  · obtain ⟨hp, hn⟩ := blockInv_busRead hi hb
    have hpos : n.toNat ≠ 0 := by simpa [BitVec.toNat_eq] using hn
    exact ⟨hp, by omega, by omega⟩

/-! ## A busy block does not look at the command port: its step commutes with another host -/

/-- A state whose host presents `ps`. -/
def withHost (ps : List Presented) (s : State) : State := { s with host := ps }

/-- An outcome whose state's host presents `ps`. -/
def withHostOutcome (ps : List Presented) : Out → Out
  | .next s => .next (withHost ps s)
  | .fault r => .fault r
  | .refused r => .refused r

section
variable (ps : List Presented) (s : State)

@[simp] theorem withHostOutcome_next : withHostOutcome ps (.next s) = .next (withHost ps s) := rfl

theorem withValue_withHost {α : Type} (l : LatchName) (held : Option α) {f g : α → Out}
    (h : ∀ v, f v = withHostOutcome ps (g v)) : withValue l held f = withHostOutcome ps (withValue l held g) := by
  cases held with
  | none => rfl
  | some v => exact h v

theorem afterWriteOk_withHost : afterWriteOk (withHost ps s) = withHostOutcome ps (afterWriteOk s) := by
  refine withValue_withHost ps _ _ fun k => ?_
  cases k with
  | send =>
    refine withValue_withHost ps _ _ fun n => ?_
    split <;> rfl
  | edid => rfl

theorem afterSettle_withHost : afterSettle (withHost ps s) = withHostOutcome ps (afterSettle s) := by
  refine withValue_withHost ps _ _ fun k => ?_
  cases k with
  | send => exact withValue_withHost ps _ _ fun d => withValue_withHost ps _ _ fun n => rfl
  | edid => rfl

theorem onWrite_withHost : onWrite (withHost ps s) = withHostOutcome ps (onWrite s) := by
  by_cases hb : ∃ a bs, s.busReq = some (.write a bs)
  · obtain ⟨a, bs, hb⟩ := hb
    cases hw : s.writeAnswers with
    | nil => rw [onWrite_silent hw, onWrite_silent (s := withHost ps s) hw]; rfl
    | cons ans rest =>
      cases ans with
      | fail e => rw [onWrite_fail hb hw, onWrite_fail (s := withHost ps s) hb hw]; rfl
      | ok =>
        rw [onWrite_ok hb hw, onWrite_ok (s := withHost ps s) hb hw, ← afterWriteOk_withHost]
        rfl
  · rw [onWrite_noWrite hb, onWrite_noWrite (s := withHost ps s) hb]; rfl

theorem onSettle_withHost : onSettle (withHost ps s) = withHostOutcome ps (onSettle s) := by
  cases ht : s.timer with
  | none => rw [onSettle_stopped ht, onSettle_stopped (s := withHost ps s) ht]; rfl
  | some ms =>
    rw [onSettle_running ht, onSettle_running (s := withHost ps s) ht, ← afterSettle_withHost]
    rfl

theorem onRead_withHost : onRead (withHost ps s) = withHostOutcome ps (onRead s) := by
  by_cases hb : ∃ a n, s.busReq = some (.read a n)
  · obtain ⟨a, n, hb⟩ := hb
    cases hr : s.readAnswers with
    | nil => rw [onRead_silent hr, onRead_silent (s := withHost ps s) hr]; rfl
    | cons r rest => rw [onRead_answered hb hr, onRead_answered (s := withHost ps s) hb hr]; rfl
  · rw [onRead_noRead hb, onRead_noRead (s := withHost ps s) hb]; rfl

variable {s}

theorem step_withHost (hp : s.phase ≠ .idle) (hr : s.resetLine = false) :
    step (withHost ps s) = withHostOutcome ps (step s) := by
  cases hph : s.phase with
  | idle => exact absurd hph hp
  | write => rw [step_write hr hph, step_write (s := withHost ps s) hr hph, onWrite_withHost]
  | settle => rw [step_settle hr hph, step_settle (s := withHost ps s) hr hph, onSettle_withHost]
  | read => rw [step_read hr hph, step_read (s := withHost ps s) hr hph, onRead_withHost]

end

/-- Settles O22: the step commutes with presenting anything else; that it takes nothing is the case in which the host
presents what it does. -/
theorem hostIsNotHeardWhileBusy : Obligations.HostIsNotHeardWhileBusy := by
  intro s ps hp hr t h
  have commutes (qs : List Presented) : step (withHost qs s) = .next (withHost qs t) := by
    rw [step_withHost qs hp hr, h, withHostOutcome_next]
  have hself : t = withHost s.host t := Host.Outcome.next.inj (h.symm.trans (commutes s.host))
  have hhost : t.host = (withHost s.host t).host := congrArg State.host hself
  exact ⟨hhost, commutes ps⟩

/-! ## Instances side by side -/

theorem attempt_bus (s : State) : (attempt s).bus = s.bus := by
  cases h : step s with
  | next t => rw [attempt_of_next h, (instanceParametersNeverChange s t h).2]
  | fault r => rw [attempt_of_fault h]
  | refused r => rw [attempt_of_refused h]

/-- Where a run goes through, it is the run of attempts. -/
theorem attempts_of_run {k : Nat} {s t : State} (h : run k s = .next t) : attempts k s = t := by
  induction k generalizing s with
  | zero => cases h; rfl
  | succ k ih =>
    rw [run_succ] at h
    obtain ⟨u, hu, ht⟩ := andThen_eq_next h
    rw [attempts, attempt_of_next hu]
    exact ih ht

/-- The system after block `k`, standing on its bus as `s`, has taken a step. -/
def moved (sys : System) (k : Nat) (s : State) : System where
  buses := sys.buses.map fun b => if b.handle == s.bus then b.after (attempt s) else b
  instances := sys.instances.set k (attempt s)

theorem view_of_bus? {sys : System} {k : Nat} {s : State} {b : Bus} (hs : sys.instances[k]? = some s)
    (hb : sys.bus? s.bus = some b) : sys.view k = some (s.onBus b) := by
  simp [System.view, hs, hb]

section
variable {sys sys' : System} {j k : Nat} {s t : State}

theorem stepInstance_of_view (h : sys.oneInstancePerBus = true) (hv : sys.view k = some s) :
    sys.stepInstance k = some (moved sys k s) := by
  simp [System.stepInstance, h, hv, moved]

/-- A move is one block's step on its bus. -/
theorem stepInstance_eq_some (h : sys.stepInstance k = some sys') :
    ∃ s, sys.view k = some s ∧ sys' = moved sys k s := by
  unfold System.stepInstance at h
  split at h
  · cases hv : sys.view k with
    | none => simp [hv] at h
    | some s => simp only [hv] at h; cases h; exact ⟨s, rfl, rfl⟩
  · cases h

theorem bus?_moved (h : BusHandle) :
    (moved sys k s).bus? h = (sys.bus? h).map fun b => if b.handle == s.bus then b.after (attempt s) else b :=
  find?_map_handle sys.buses s.bus h _ fun _ => rfl

theorem handle_of_bus? {h : BusHandle} {b : Bus} (hb : sys.bus? h = some b) : b.handle = h := by
  simpa using List.find?_some hb

/-- A step does not rebind its block, so no two blocks come to share a bus. -/
theorem oneInstancePerBus_moved (h : sys.oneInstancePerBus = true) (hv : sys.view k = some s) :
    (moved sys k s).oneInstancePerBus = true := by
  obtain ⟨s₀, b, hs, -, rfl⟩ := view_eq_some hv
  obtain ⟨hlt, rfl⟩ := List.getElem?_eq_some_iff.1 hs
  have hmap : (moved sys k (sys.instances[k].onBus b)).instances.map (·.bus) = sys.instances.map (·.bus) := by
    have hself : sys.instances[k].bus = (sys.instances.map (·.bus))[k]'(by simpa using hlt) := by simp
    simp only [moved, List.map_set, attempt_bus, State.onBus_bus]
    rw [hself, List.set_getElem_self]
  rw [System.oneInstancePerBus, hmap]
  exact h

/-- The block that moves stands on its bus as its attempt leaves it. -/
theorem view_moved_same (hv : sys.view k = some s) : (moved sys k s).view k = some (attempt s) := by
  obtain ⟨s₀, b, hs, hb, rfl⟩ := view_eq_some hv
  have hk : (moved sys k (s₀.onBus b)).instances[k]? = some (attempt (s₀.onBus b)) :=
    List.getElem?_set_self (List.getElem?_eq_some_iff.1 hs).1
  have hbus : (moved sys k (s₀.onBus b)).bus? (attempt (s₀.onBus b)).bus = some (b.after (attempt (s₀.onBus b))) := by
    rw [bus?_moved, attempt_bus, State.onBus_bus, hb]
    simp [handle_of_bus? hb]
  rw [view_of_bus? hk hbus, State.onBus_self]

/-- Every other block, and the bus it stands on, keeps still. -/
theorem view_moved_other (h : sys.oneInstancePerBus = true) (hkj : k ≠ j) (hk : sys.view k = some s)
    (hj : sys.view j = some t) : (moved sys k s).view j = some t := by
  obtain ⟨s₀, b, hs, -, rfl⟩ := view_eq_some hk
  obtain ⟨t₀, c, ht, hc, rfl⟩ := view_eq_some hj
  have hne : c.handle ≠ s₀.bus := handle_of_bus? hc ▸ (bus_ne h hkj hs ht).symm
  have hj' : (moved sys k (s₀.onBus b)).instances[j]? = some t₀ := (List.getElem?_set_ne hkj).trans ht
  exact view_of_bus? hj' (by rw [bus?_moved, hc]; simp [hne])

end

/-- By induction on the schedule: a move is one attempt of the block that moves and none of any other. -/
theorem view_runSchedule (schedule : List Nat) {sys sys' : System} {j : Nat} {s : State}
    (h : sys.oneInstancePerBus = true) (hrun : System.runSchedule schedule sys = some sys') (hv : sys.view j = some s) :
    sys'.view j = some (attempts (schedule.count j) s) := by
  induction schedule generalizing sys s with
  | nil => cases hrun; exact hv
  | cons k ks ih =>
    cases hstep : sys.stepInstance k with
    | none => simp [System.runSchedule, hstep] at hrun
    | some sys₁ =>
      obtain ⟨u, hu, rfl⟩ := stepInstance_eq_some hstep
      have hrest : System.runSchedule ks (moved sys k u) = some sys' := by
        simpa [System.runSchedule, hstep] using hrun
      have hone := oneInstancePerBus_moved h hu
      by_cases hkj : k = j
      · subst hkj
        rw [hu] at hv; cases hv
        rw [List.count_cons_self, attempts]
        exact ih hone hrest (view_moved_same hu)
      · rw [List.count_cons_of_ne hkj]
        exact ih hone hrest (view_moved_other h hkj hu hv)

/-- Settles O48: the interleaving by `view_runSchedule`; two instances on one bus are what `bus_ne` excludes, and a system that
has them makes no move. -/
theorem instancesDoNotInterfere : Obligations.InstancesDoNotInterfere := by
  refine ⟨fun schedule sys sys' h hrun j s hv => ?_, fun sys k s h hv => ⟨_, stepInstance_of_view h hv⟩,
    fun sys i j s t hij hi hj hbus k => ?_⟩
  · have hview := view_runSchedule schedule h hrun hv
    exact ⟨hview, fun t ht => by rw [hview, attempts_of_run ht]⟩
  · have h : sys.oneInstancePerBus ≠ true := fun h => bus_ne h hij hi hj hbus
    simp [System.stepInstance, h]

end Sys2Proof.Proofs
end

section
/-! SUPPORT. What the decoder reads from a frame, which byte sequences decode and which are recognised as frames, and the
obligations of the encoding family (spec 30_encoding.md). -/

namespace Sys2Proof.Proofs

open Sys2Proof.Machine Sys2Proof.Safety

/-! ## The opcode map -/

theorem matchesPattern_nil : matchesPattern [] [] = true := rfl

/-- A fixed byte of a row has to be there. -/
theorem matchesPattern_fixed {k b : Byte} {ps : List (Option Byte)} {bs : List Byte} :
    matchesPattern (some k :: ps) (b :: bs) = true ↔ b = k ∧ matchesPattern ps bs = true := by
  simp [matchesPattern, eq_comm (a := b)]

/-- A byte that a row leaves to operands and the checksum can be any. -/
theorem matchesPattern_free {b : Byte} {ps : List (Option Byte)} {bs : List Byte} :
    matchesPattern (none :: ps) (b :: bs) = matchesPattern ps bs := by
  simp [matchesPattern]

theorem length_of_matchesPattern {ps : List (Option Byte)} {bs : List Byte} (h : matchesPattern ps bs = true) :
    bs.length = ps.length := by
  fun_induction matchesPattern ps bs with
  | case1 => rfl
  | case2 p ps b bs ih => exact congrArg (· + 1) (ih (Bool.and_eq_true_iff.1 h).2)
  | case3 => cases h

/-- Looking a row up, one row after another. -/
theorem find?_cons_ite {α : Type} (p : α → Bool) (r : α) (rs : List α) :
    (r :: rs).find? p = if p r = true then some r else rs.find? p := by
  cases h : p r <;> simp [h]

/-! ## The operation read from a frame -/

/-- The operation read from a frame with these bytes 3, 4, 5: the catalog command whose row they match, else a
`send_command` (R92, R94). -/
def instrOfFrame (opcode ap vp : Nat) : Instr :=
  if opcode = 0xF4 ∧ ap = 0 then .inputSelect vp
  else if opcode = 0xF5 ∧ ap = 0 ∧ vp = 0 then .systemReset
  else if opcode = 0x68 ∧ ap = 0 then .selectLanguage vp
  else if opcode = 0xCA ∧ ap = 0 ∧ vp = 0 then .getModelStr
  else if opcode = 0xE7 then .readEeprom ap vp
  else .sendCommand 0 opcode ap vp 0

/-- The rows of the opcode map are tried in order, and the checksum byte `c` is free in each (R91, R92, R123). -/
theorem decodeBytes_frame (opc ap vp c : Byte) :
    decodeBytes [0x50, 0x84, 0x03, opc, ap, vp, c] = .ok (instrOfFrame opc.toNat ap.toNat vp.toNat) := by
  simp only [decodeBytes, rowOfBytes, opcodeRows, find?_cons_ite, matchesPattern_fixed, matchesPattern_free,
    matchesPattern_nil, and_true, true_and, if_true, ← BitVec.toNat_inj, BitVec.reduceToNat, instrOfFrame]
  split_ifs <;> rfl

theorem decodeBytes_frameBytes (d : Addr) (opc ap vp : Byte) :
    decodeBytes (frameBytes d opc ap vp) = .ok (instrOfFrame opc.toNat ap.toNat vp.toNat) :=
  decodeBytes_frame opc ap vp _

theorem decodeBytes_edidPtr : decodeBytes Config.edidPtr = .ok .readEdid := by decide

/-! ## Words of the opcode table -/

/-- What the range check passed stands unchanged at its port (R95). -/
theorem portByte_toNat {v : Nat} (h : v < 256) : (portByte v).toNat = v := by
  rw [portByte, BitVec.toNat_ofNat, Nat.mod_eq_of_lt h]

/-- Decoding the word of an operation is decoding its byte sequence (R91). -/
theorem decodeTableWord_encodeWord (ddc : Addr) (i : Instr) :
    decodeTableWord (tableBits i) (encodeWord ddc i) = (decodeBytes (encodeBytes ddc i)).toOption :=
  decodeTableWord_wordOfBytes _ _ (Laws.EncodesToItsRow.every i ddc).2 (by cases i <;> simp [tableBits])

/-- Settles O2: a catalog command's frame is read by its own row, `read_edid` by the pointer's. -/
theorem tableWordsDecodeBackToTheirOperation : Obligations.TableWordsDecodeBackToTheirOperation := by
  intro ddc i hw hbits
  rw [decodeTableWord_encodeWord]
  cases i with
  | buildFrame | sendCommand => cases hbits
  | inputSelect display =>
    have hd : display < 256 := by simpa [Instr.wellFormed] using hw
    rw [encodeBytes, decodeBytes_frameBytes, portByte_toNat hd]; rfl
  | systemReset => rw [encodeBytes, decodeBytes_frameBytes]; rfl
  | selectLanguage language =>
    have hl : language < 256 := by simpa [Instr.wellFormed] using hw
    rw [encodeBytes, decodeBytes_frameBytes, portByte_toNat hl]; rfl
  | getModelStr => rw [encodeBytes, decodeBytes_frameBytes]; rfl
  | readEeprom adh adl =>
    obtain ⟨hh, hl⟩ : adh < 256 ∧ adl < 256 := by simpa [Instr.wellFormed] using hw
    rw [encodeBytes, decodeBytes_frameBytes, portByte_toNat hh, portByte_toNat hl]; rfl
  | readEdid => rw [encodeBytes, decodeBytes_edidPtr]; rfl

theorem decodeTableWord_frameBytes (d : Addr) {opcode ap vp : Nat} (ho : opcode < 256) (ha : ap < 256) (hv : vp < 256) :
    decodeTableWord 56 (wordOfBytes (frameBytes d (portByte opcode) (portByte ap) (portByte vp))) =
      some (instrOfFrame opcode ap vp) := by
  rw [decodeTableWord_wordOfBytes _ 56 rfl (.inr rfl), decodeBytes_frameBytes, portByte_toNat ho, portByte_toNat ha,
    portByte_toNat hv]
  rfl

/-- Settles O3: `send_command` and `build_frame` have one word, and its bytes match no row of the catalog. -/
theorem genericFrameWordsKeepTheirCommand : Obligations.GenericFrameWordsKeepTheirCommand := by
  intro ddc dest opcode ap vp rlen hw hF4 hF5 h68 hCA hE7
  obtain ⟨-, ho, ha, hv, -⟩ : dest < 128 ∧ opcode < 256 ∧ ap < 256 ∧ vp < 256 ∧ rlen < 256 := by
    simpa [Instr.wellFormed, and_assoc] using hw
  have generic : instrOfFrame opcode ap vp = .sendCommand 0 opcode ap vp 0 := by
    rw [instrOfFrame, if_neg hF4, if_neg hF5, if_neg h68, if_neg hCA, if_neg hE7]
  rw [← generic]
  exact ⟨decodeTableWord_frameBytes _ ho ha hv, decodeTableWord_frameBytes _ ho ha hv⟩

/-- Settles O4, by running the decoder on the six words. -/
theorem wordsWrittenFromTheTableDecode : Obligations.WordsWrittenFromTheTableDecode := by
  refine ⟨?_, ?_, ?_, ?_, ?_, ?_⟩ <;> decide

/-! ## Which byte sequences decode -/

/-- Every row of the opcode map is the EDID pointer's or a frame's, with the three fixed bytes ahead (R80, R86). -/
theorem opcodeRow_pattern {r : OpcodeRow} (h : r ∈ opcodeRows) :
    r.pattern = [some 0x00] ∨ ∃ o a v c, r.pattern = [some 0x50, some 0x84, some 0x03, o, a, v, c] := by
  simp only [opcodeRows, List.mem_cons, List.not_mem_nil, or_false] at h
  rcases h with rfl | rfl | rfl | rfl | rfl | rfl | rfl | rfl <;> simp

theorem shape_of_matchesPattern {r : OpcodeRow} {bs : List Byte} (hr : r ∈ opcodeRows)
    (h : matchesPattern r.pattern bs = true) :
    bs = [0x00] ∨ ∃ o a v c : Byte, bs = [0x50, 0x84, 0x03, o, a, v, c] := by
  obtain hp | ⟨_, _, _, _, hp⟩ := opcodeRow_pattern hr <;> rw [hp] at h
  · left
    match bs, length_of_matchesPattern h with
    | [b], _ => rw [(matchesPattern_fixed.1 h).1]
  · right
    match bs, length_of_matchesPattern h with
    | [b0, b1, b2, o, a, v, c], _ =>
      simp only [matchesPattern_fixed] at h
      obtain ⟨rfl, rfl, rfl, -⟩ := h
      exact ⟨o, a, v, c, rfl⟩

theorem exists_row_of_decodeBytes {bs : List Byte} {i : Instr} (h : decodeBytes bs = .ok i) :
    ∃ r ∈ opcodeRows, matchesPattern r.pattern bs = true := by
  unfold decodeBytes rowOfBytes at h
  split at h
  · next r hr =>
    exact ⟨r, List.mem_of_find?_eq_some hr, List.find?_some (p := fun r : OpcodeRow => matchesPattern r.pattern bs) hr⟩
  · cases h

/-- Settles O5: what decodes matches a row, so it has a row's shape; conversely the pointer and every frame decode. -/
theorem onlyFramesAndTheEdidPointerDecode : Obligations.OnlyFramesAndTheEdidPointerDecode := by
  refine fun bs => ⟨fun ⟨i, hi⟩ => ?_, ?_⟩
  · obtain ⟨r, hr, hm⟩ := exists_row_of_decodeBytes hi
    exact shape_of_matchesPattern hr hm
  · rintro (rfl | ⟨o, a, v, c, rfl⟩)
    · exact ⟨_, decodeBytes_edidPtr⟩
    · exact ⟨_, decodeBytes_frame o a v c⟩

/-! ## Recognising a frame -/

/-- The fold over a whole frame is zero exactly when its last byte is the checksum (R117). -/
theorem foldXor_preChecksum_append (d : Addr) (opc ap vp c : Byte) :
    foldXor (seed d) (preChecksum opc ap vp ++ [c]) = 0 ↔ c = checksum d opc ap vp := by
  rw [foldXor_append_one, ← checksum, eq_comm (a := c)]
  exact BitVec.xor_eq_zero_iff

theorem recognisesFrame_iff (d : Addr) (f : List Byte) :
    recognisesFrame d f = true ↔ (∃ o a v c : Byte, f = preChecksum o a v ++ [c]) ∧ foldXor (seed d) f = 0 := by
  unfold recognisesFrame
  split
  · simp [preChecksum_eq, and_assoc]
  · next hf =>
    have hno : ¬ ∃ o a v c, f = preChecksum o a v ++ [c] := by
      rintro ⟨o, a, v, c, rfl⟩
      exact hf _ _ _ _ _ _ _ rfl
    simp [hno]

/-- The shape of a frame, read byte by byte (R93). -/
theorem exists_eq_preChecksum_append_iff (f : List Byte) :
    (∃ o a v c : Byte, f = preChecksum o a v ++ [c]) ↔
      f.length = 7 ∧ f[0]? = some 0x50 ∧ f[1]? = some 0x84 ∧ f[2]? = some 0x03 := by
  constructor
  · rintro ⟨o, a, v, c, rfl⟩
    exact ⟨rfl, rfl, rfl, rfl⟩
  · rintro ⟨hlen, h0, h1, h2⟩
    match f, hlen with
    | [b0, b1, b2, o, a, v, c], _ =>
      cases h0; cases h1; cases h2
      exact ⟨o, a, v, c, rfl⟩

/-- Settles O6: of a sequence with a frame's shape, the zero fold says that its last byte is the checksum. -/
theorem recognisedFramesAreExactlyTheBuiltFrames : Obligations.RecognisedFramesAreExactlyTheBuiltFrames := by
  refine fun d f => ⟨?_, ?_, fun _ _ _ => rfl⟩ <;> rw [recognisesFrame_iff]
  · rw [exists_eq_preChecksum_append_iff]
    simp only [and_assoc]
    rfl
  · constructor
    · rintro ⟨⟨o, a, v, c, rfl⟩, hfold⟩
      exact ⟨o, a, v, by rw [(foldXor_preChecksum_append d o a v c).1 hfold, frameBytes]⟩
    · rintro ⟨o, a, v, rfl⟩
      exact ⟨⟨o, a, v, _, rfl⟩, (foldXor_preChecksum_append d o a v _).2 rfl⟩

theorem seed_toNat (d : Addr) : (seed d).toNat = 2 * d.toNat := by
  rw [seed, BitVec.toNat_shiftLeft, BitVec.toNat_setWidth, Nat.shiftLeft_eq]
  omega

/-- Settles O7: the address has 7 bits, so that none of them is shifted out of the 8. -/
theorem seedIsTheAddressShiftedLeftByOne : Obligations.SeedIsTheAddressShiftedLeftByOne := by
  refine ⟨fun d => ⟨seed_toNat d, ?_, fun k hk => ?_⟩, rfl⟩
  · simp [seed]
  · have hk8 : k + 1 < 8 := by omega
    simp [seed, hk8]

/-! ## Operands and the command port -/

/-- Settles O19: every operation goes through the host layer, which stops an ill-formed one. -/
theorem outOfRangeOperandsRaiseInvalidParameter : Obligations.OutOfRangeOperandsRaiseInvalidParameter := by
  intro s i hw
  obtain ⟨o, ho⟩ := exec_eq_hostLayer i s
  rw [ho]
  exact hostLayer_illFormed hw s o

/-- Settles O1: an operation's descriptor holds its kind and every operand. -/
theorem decodeOfEncodeIsTheOperation : Obligations.DecodeOfEncodeIsTheOperation := by
  intro i
  cases i <;> rfl

theorem decode_word_of_decodeTableWord {nbits w : Nat} {i : Instr} (h : decodeTableWord nbits w = some i) :
    decode (.word nbits w) = .ok i := by
  unfold decodeTableWord at h
  split at h
  · next hd => rw [hd, Option.some.inj h]
  · cases h

theorem withFetchWord_idle {s : State} (hp : s.phase = .idle) (nbits w : Nat) :
    s.withFetchWord nbits w = { s with resetLine := false, host := .word nbits w :: s.host } := by
  simp [State.withFetchWord, State.busy, hp]

theorem step_operation {s : State} {p : Presented} {rest : List Presented} {i : Instr} (hr : s.resetLine = false)
    (hp : s.phase = .idle) (hh : s.host = p :: rest) (hd : decode p = .ok i) :
    step s = exec i { s with host := rest } := by
  rw [step_idle hr hp, onIdle_operation hh hd]

/-- Settles O20: `step_operation` for what decodes, the word that `withFetchWord` places among it. -/
theorem idleStepRunsTheDecodedOperation : Obligations.IdleStepRunsTheDecodedOperation := by
  refine ⟨fun s p rest i => step_operation, fun s p rest r hr hp hh hd => ?_, fun s nbits w i hp hd => ?_⟩
  · rw [step_idle hr hp, onIdle_undecodable hh hd]
  · have hidle : (s.withFetchWord nbits w).phase = .idle := by rw [withFetchWord_idle hp]; exact hp
    rw [step_operation rfl hidle rfl (decode_word_of_decodeTableWord hd), withFetchWord_idle hp]

end Sys2Proof.Proofs
end

section
/-! SUPPORT. The arithmetic of the checksum, what the byte-serial builder has done after each of its steps, and the
obligations of the frame builder family (spec 40_frame_builder.md). -/

namespace Sys2Proof.Proofs

open Sys2Proof.Machine

/-! ## The checksum -/

/-- The three fixed bytes of a frame contribute a constant (R115). -/
theorem fixedBytes_xor : (0x50 ^^^ 0x84 ^^^ 0x03 : Byte) = 0xD7 := by decide

theorem checksum_eq (d : Addr) (o a v : Byte) : checksum d o a v = seed d ^^^ 0xD7 ^^^ o ^^^ a ^^^ v := by
  calc checksum d o a v = seed d ^^^ 0x50 ^^^ 0x84 ^^^ 0x03 ^^^ o ^^^ a ^^^ v := rfl
    _ = seed d ^^^ (0x50 ^^^ 0x84 ^^^ 0x03) ^^^ o ^^^ a ^^^ v := by ac_rfl
    _ = seed d ^^^ 0xD7 ^^^ o ^^^ a ^^^ v := by rw [fixedBytes_xor]

/-- Settles O10: the closed form, with the seed of `0x37` put in. -/
theorem checksumHasItsClosedForm : Obligations.ChecksumHasItsClosedForm := by
  refine ⟨fixedBytes_xor, fun d o a v => ⟨checksum_eq d o a v, ?_⟩⟩
  have hseed : seed 0x37 ^^^ 0xD7 = 0xB9 := by decide
  rw [checksum_eq, hseed]

/-- Settles O11: a frame's fold is zero exactly when it ends with its checksum. -/
theorem foldOverTheWholeFrameIsZero : Obligations.FoldOverTheWholeFrameIsZero := by
  refine ⟨fun d o a v => (foldXor_preChecksum_append d o a v _).2 rfl, fun d o a v c hfold => ?_⟩
  rw [(foldXor_preChecksum_append d o a v c).1 hfold]
  rfl

section
variable (d e : Addr) (o a v x : Byte)

theorem checksum_swap_parameters : checksum d o a v = checksum d o v a := by
  rw [checksum_eq, checksum_eq]; ac_rfl

theorem checksum_equal_parameters : checksum d o a a = checksum d o 0x00 0x00 := by
  simp [checksum_eq, BitVec.xor_assoc]

theorem checksum_opcode_xor : checksum d (o ^^^ x) a v = checksum d o a v ^^^ x := by
  rw [checksum_eq, checksum_eq]; ac_rfl

theorem checksum_valueParam_xor : checksum d o a (v ^^^ x) = checksum d o a v ^^^ x := by
  rw [checksum_eq, checksum_eq]; ac_rfl

theorem checksum_addrParam_xor : checksum d o (a ^^^ x) v = checksum d o a v ^^^ x := by
  rw [checksum_swap_parameters, checksum_valueParam_xor, checksum_swap_parameters]

theorem checksum_onto (c : Byte) : ∃ o', checksum d o' a v = c := by
  refine ⟨0 ^^^ (checksum d 0 a v ^^^ c), ?_⟩
  rw [checksum_opcode_xor, ← BitVec.xor_assoc, BitVec.xor_self, BitVec.zero_xor]

theorem seed_xor : seed (d ^^^ e) = seed d ^^^ seed e := by
  rw [seed, BitVec.setWidth_xor, BitVec.shiftLeft_xor_distrib, seed, seed]

/-- Two destinations change the checksum by the seed of their difference. -/
theorem checksum_xor_checksum : checksum d o a v ^^^ checksum e o a v = seed (d ^^^ e) := by
  calc checksum d o a v ^^^ checksum e o a v
      = seed d ^^^ seed e ^^^ ((0xD7 ^^^ o ^^^ a ^^^ v) ^^^ (0xD7 ^^^ o ^^^ a ^^^ v)) := by
        rw [checksum_eq, checksum_eq]; ac_rfl
    _ = seed (d ^^^ e) := by rw [BitVec.xor_self, BitVec.xor_zero, seed_xor]

end

/-- Settles O12: the laws of the operands from the closed form, those of the destination from the bits of the seed of
the two destinations' difference. -/
theorem checksumBitLaws : Obligations.ChecksumBitLaws := by
  intro d e o a v x
  obtain ⟨-, hbit0, hbits⟩ := seedIsTheAddressShiftedLeftByOne.1 (d ^^^ e)
  rw [← checksum_xor_checksum d e o a v] at hbit0 hbits
  rw [BitVec.getLsbD_xor, bne_eq_false_iff_eq] at hbit0
  exact ⟨checksum_onto d a v, checksum_equal_parameters d o a, checksum_swap_parameters d o a v,
    checksum_opcode_xor d o a v x, checksum_addrParam_xor d o a v x, checksum_valueParam_xor d o a v x,
    hbits, hbit0, rfl, rfl⟩

/-! ## `build_frame` over the latches and alone -/

/-- Settles O8, by `buildFrame_next`. -/
theorem buildFrameWritesTheFrameAndNothingElse : Obligations.BuildFrameWritesTheFrameAndNothingElse :=
  ⟨fun s d o a v hd ho ha hv => ⟨_, buildFrame_next s d o a v hd ho ha hv, rfl, rfl, rfl⟩, by decide⟩

/-- Settles O13: an idle block takes a well-formed `build_frame`, and `builtState` is what that leaves. -/
theorem buildFrameReturnsItsFrame : Obligations.BuildFrameReturnsItsFrame :=
  fun _ _ _ _ _ hp hw => exec_idle hw hp

/-! ## The byte-serial builder, one byte a step -/

/-- What the latches hold after `k` steps of the byte-serial builder (R119). -/
structure BuiltSoFar (d : Addr) (o a v : Byte) (k : Nat) (l : Latches) : Prop where
  opc : l.opc = some o
  ap : l.ap = some a
  vp : l.vp = some v
  idx : l.idx = some (BitVec.ofNat 3 k)
  acc : l.acc = some (foldXor (seed d) ((preChecksum o a v).take k))
  frame : ∀ j, j < k → l.frame[j]? = some ((preChecksum o a v)[j]?)

section
variable {s t : State} {d : Addr} {o a v : Byte} {k : Nat}

theorem builderStart_eq (hd : s.latches.dest = some d) :
    builderStart s = .next { s with latches := { s.latches with acc := some (seed d), idx := some 0 } } := by
  rw [builderStart, hd, withValue_some]

theorem builtSoFar_start (hd : s.latches.dest = some d) (ho : s.latches.opc = some o) (ha : s.latches.ap = some a)
    (hv : s.latches.vp = some v) (hs : builderStart s = .next t) : BuiltSoFar d o a v 0 t.latches := by
  rw [builderStart_eq hd] at hs
  cases hs
  exact ⟨ho, ha, hv, rfl, rfl, fun j hj => absurd hj (Nat.not_lt_zero j)⟩

/-- The six-way selector picks byte `k` of `pre` (R118). -/
theorem builderStep_emits (h : BuiltSoFar d o a v k s.latches) (hk : k < (preChecksum o a v).length) :
    builderStep s = emitByte (BitVec.ofNat 3 k) (preChecksum o a v)[k] s := by
  have hk6 : k < 6 := hk
  rw [builderStep, h.idx, withValue_some]
  interval_cases k
  · rfl
  · rfl
  · rfl
  · exact congrArg (withValue .opc · _) h.opc
  · exact congrArg (withValue .ap · _) h.ap
  · exact congrArg (withValue .vp · _) h.vp

theorem builderStep_builtSoFar (h : BuiltSoFar d o a v k s.latches) (hk : k < 6) :
    ∃ t, builderStep s = .next t ∧ BuiltSoFar d o a v (k + 1) t.latches := by
  have hlen : k < (preChecksum o a v).length := hk
  rw [builderStep_emits h hlen, emitByte, h.acc, withValue_some]
  refine ⟨_, rfl, h.opc, h.ap, h.vp, ?_, ?_, fun j hj => ?_⟩
  · exact congrArg some (BitVec.ofNat_add ..).symm
  · rw [← List.take_append_getElem hlen, foldXor_append_one]
  · have hidx : (BitVec.ofNat 3 k).toNat = k := by rw [BitVec.toNat_ofNat]; omega
    rw [hidx, Vector.getElem?_setIfInBounds]
    obtain hlt | rfl := Nat.lt_succ_iff_lt_or_eq.1 hj
    · rw [if_neg (by omega), h.frame j hlt]
    · rw [if_pos rfl, if_pos (by omega), List.getElem?_eq_getElem hlen]

theorem builderRun_builtSoFar (n : Nat) : ∀ {k : Nat} {s : State}, BuiltSoFar d o a v k s.latches → k + n ≤ 6 →
    ∃ t, builderRun n s = .next t ∧ BuiltSoFar d o a v (k + n) t.latches := by
  induction n with
  | zero => exact fun h _ => ⟨_, rfl, h⟩
  | succ n ih =>
    intro k s h hn
    obtain ⟨s', hs', h'⟩ := builderStep_builtSoFar h (by omega)
    rw [builderRun, hs', andThen_next, ← Nat.succ_add_eq_add_succ]
    exact ih h' (by omega)

/-- The seven steps after the start are the functional view's `build_frame`. -/
theorem builderRun_frameLen {s₀ : State} (hs : builderStart s = .next s₀) :
    builderRun Config.frameLen s₀ = buildFrame s := by
  rw [buildFrame, hs, andThen_next]

end

/-- Settles O9: the invariant along the first six steps, and the whole run of seven by what `build_frame` leaves. -/
theorem byteSerialBuilderFoldsOneByteAStep : Obligations.ByteSerialBuilderFoldsOneByteAStep := by
  refine ⟨fun s s₀ d o a v hd ho ha hv hs => ⟨fun k hk => ?_, ?_⟩, by decide, by decide⟩
  · obtain ⟨t, ht, h⟩ := builderRun_builtSoFar k (builtSoFar_start hd ho ha hv hs) (by omega)
    rw [Nat.zero_add] at h
    exact ⟨t, ht, h.idx, h.acc, h.frame⟩
  · exact ⟨_, (builderRun_frameLen hs).trans (buildFrame_next s d o a v hd ho ha hv), rfl, frameLatches_withFrame ..⟩

end Sys2Proof.Proofs
end

section
/-! SUPPORT. The latches of an operation in progress, the rows of the transition table, and an operation as a whole, from its
outstanding write to its return; and the obligations of the transaction family (spec 41_transaction.md). -/

namespace Sys2Proof.Proofs

open Sys2Proof.Machine Sys2Proof.Safety

/-! ## Acceptance -/

/-- A busy block's port takes no well-formed operation, of whatever kind (R131). -/
theorem exec_busy {i : Instr} {s : State} (hw : i.wellFormed = true) (hp : s.phase ≠ .idle) :
    exec i s = .refused .notAccepted := by
  cases i <;> exact (hostLayer_wellFormed hw s _).trans (whenIdle_busy hp _)

/-- Settles O14: an idle block takes the operation, which leaves `acceptedState`; a busy one refuses it. -/
theorem sendCommandAcceptsBuildsAndWrites : Obligations.SendCommandAcceptsBuildsAndWrites :=
  ⟨fun _ _ _ _ _ _ hp hw => exec_idle hw hp, fun _ _ hp hw => exec_busy hw hp⟩

/-! ## What the latches say of the operation in progress -/

section
variable {s : State} {op : Operation} {p : Plan}

/-- The plan of a `send_command` in progress is the latches' (R131). -/
theorem inProgress_send (h : InProgress op p s) (hk : s.latches.kind = some .send) :
    s.latches.dest = some p.addr ∧ s.latches.rlen = some p.replyLength ∧ p.interval = 500 := by
  have hpl := h.plan
  rw [h.latches] at hk ⊢
  cases op with
  | build => cases hpl
  | send => cases hpl; exact ⟨rfl, rfl, rfl⟩
  | edid => cases hk

/-- `RLEN` is 0 exactly where no read is due: `read_edid`, whose `RLEN` holds no value, always reads. -/
theorem inProgress_rlen_zero (h : InProgress op p s) : s.latches.rlen = some 0 ↔ p.replyLength = 0 := by
  have hpl := h.plan
  rw [h.latches]
  cases op with
  | build => cases hpl
  | send => cases hpl; exact Option.some_inj
  | edid => cases hpl; decide

end

/-! ## The steps after acceptance -/

/-- Settles O23, by `onWrite_fail`. -/
theorem failedWriteReturnsBusWriteFailed : Obligations.FailedWriteReturnsBusWriteFailed := by
  intro s e rest hi hr hp hw
  obtain ⟨op, p, -, hb, -⟩ := blockInv_write hi hp
  exact ⟨_, _, hb, (step_write hr hp).trans (onWrite_fail hb hw)⟩

/-- Settles O24, by `onWrite_ok_last`: with `RLEN = 0` no read is due. -/
theorem acceptedWriteWithoutReplyReturnsAtOnce : Obligations.AcceptedWriteWithoutReplyReturnsAtOnce := by
  intro s rest hi hr hp hw _ hn
  obtain ⟨op, p, ho, hb, -⟩ := blockInv_write hi hp
  exact ⟨_, _, hb, (step_write hr hp).trans (onWrite_ok_last ho hb hw ((inProgress_rlen_zero ho).1 hn))⟩

/-- Settles O25, by `onWrite_ok_settle`: with another `RLEN` a read is due, and a `send_command`'s interval is 500 ms. -/
theorem acceptedWriteWithReplyStartsTheSettleWait : Obligations.AcceptedWriteWithReplyStartsTheSettleWait := by
  intro s n rest hi hr hp hw hk hn hne
  obtain ⟨op, p, ho, hb, -⟩ := blockInv_write hi hp
  obtain ⟨-, hrlen, hms⟩ := inProgress_send ho hk
  obtain rfl : n = p.replyLength := Option.some.inj (hn.symm.trans hrlen)
  exact ⟨_, _, hb, ho.lock, hms ▸ (step_write hr hp).trans (onWrite_ok_settle ho hb hw hne)⟩

/-- Settles O26, by `onSettle_inProgress`: the plan's address and length are `DEST` and `RLEN`. -/
theorem settleElapseIssuesTheOneRead : Obligations.SettleElapseIssuesTheOneRead := by
  intro s hi hr hp hk
  obtain ⟨op, p, ho, -, -, ht⟩ := blockInv_settle hi hp
  obtain ⟨hdest, hrlen, hms⟩ := inProgress_send ho hk
  rw [hms] at ht
  exact ⟨_, _, _, hdest, hrlen, ht, settleDuration_ge 500 s.bus.number s.draws,
    (step_settle hr hp).trans (onSettle_inProgress ho ht)⟩

/-- Settles O27, by `onRead_answered`: the read outstanding is that of `RLEN` bytes from `DEST`. -/
theorem successfulReadReturnsTheRawReply : Obligations.SuccessfulReadReturnsTheRawReply := by
  intro s n bytes r rest hi hr hp hra hans hk hn
  obtain ⟨op, p, ho, -, hb, -⟩ := blockInv_read hi hp
  obtain ⟨hdest, hrlen, -⟩ := inProgress_send ho hk
  obtain rfl : n = p.replyLength := Option.some.inj (hn.symm.trans hrlen)
  refine ⟨_, hdest, hb, ?_⟩
  rw [step_read hr hp, onRead_answered hb hra, hans]
  rfl

/-- Settles O28, by `onRead_answered`. -/
theorem failedReadReturnsBusReadFailed : Obligations.FailedReadReturnsBusReadFailed := by
  intro s e rest hi hr hp hra
  obtain ⟨op, p, -, -, hb, -⟩ := blockInv_read hi hp
  exact ⟨_, _, hb, (step_read hr hp).trans (onRead_answered hb hra)⟩

/-! ## The rows of the transition table -/

/-- The three rows of R139 that leave `WRITE`, by the write's answer and by whether a read is due. -/
theorem onWrite_rows {s t : State} (hi : BlockInv s) (hp : s.phase = .write) (h : onWrite s = .next t)
    (hne : t.phase ≠ s.phase) :
    (t.phase = .idle ∧ ∃ e rest, s.writeAnswers = .fail e :: rest ∧ t.result = some (.err .busWriteFailed e)) ∨
    (t.phase = .idle ∧ s.latches.rlen = some 0 ∧ (∃ rest, s.writeAnswers = .ok :: rest) ∧
      t.result = some .okNoValue) ∨
    (t.phase = .settle ∧ s.latches.rlen ≠ some 0 ∧ ∃ rest, s.writeAnswers = .ok :: rest) := by
  obtain ⟨op, p, ho, hb, -⟩ := blockInv_write hi hp
  cases hw : s.writeAnswers with
  | nil => rw [onWrite_silent hw] at h; cases h; exact absurd rfl hne
  | cons ans rest =>
    cases ans with
    | fail e => rw [onWrite_fail hb hw] at h; cases h; exact .inl ⟨rfl, e, rest, rfl, rfl⟩
    | ok =>
      rw [inProgress_rlen_zero ho, Ne, inProgress_rlen_zero ho]
      by_cases hn : p.replyLength = 0
      · rw [onWrite_ok_last ho hb hw hn] at h; cases h
        exact .inr (.inl ⟨rfl, hn, ⟨rest, rfl⟩, rfl⟩)
      · rw [onWrite_ok_settle ho hb hw hn] at h; cases h
        exact .inr (.inr ⟨rfl, hn, rest, rfl⟩)

/-- Settles O31: of the moves of a step, acceptance, the settle elapse and the return after a read are rows of the table as
they are; those out of `WRITE` are by `onWrite_rows`, where the invariant ties `RLEN` to the operation in progress. -/
theorem phaseChangesOnlyByTheTransitionTable : Obligations.PhaseChangesOnlyByTheTransitionTable := by
  intro s t hi hr h hne
  by_cases hp : s.phase = .write
  · obtain hrow | hrow | hrow := onWrite_rows hi hp (step_write hr hp ▸ h) hne
    · exact .inr (.inl ⟨hp, hrow⟩)
    · exact .inr (.inr (.inl ⟨hp, hrow⟩))
    · exact .inr (.inr (.inr (.inl ⟨hp, hrow⟩)))
  cases step_move h with
  | reset h' => simp [hr] at h'
  | wait => exact absurd rfl hne
  | refuseOperand => exact absurd rfl hne
  | build => exact absurd rfl hne
  | accept hp hh => exact .inl ⟨hp, rfl, by simp [hh], _, _, rfl⟩
  | returnAfterWrite hp' => exact absurd hp' hp
  | settle hp' => exact absurd hp' hp
  | issueRead hp => exact .inr (.inr (.inr (.inr (.inl ⟨hp, rfl, _, _, rfl⟩))))
  | @returnAfterRead a n r rest hp hb hra =>
    cases r with
    | fails e => exact .inr (.inr (.inr (.inr (.inr (.inl ⟨hp, rfl, e, rest, hra, rfl⟩)))))
    | delivers supply =>
      exact .inr (.inr (.inr (.inr (.inr (.inr ⟨hp, rfl, supply, rest, n, hra, rfl, a, hb⟩)))))

/-! ## Runs of a block that waits -/

theorem run_zero (s : State) : run 0 s = .next s := rfl

theorem run_of_step {s t : State} {k : Nat} (h : step s = .next t) : run (k + 1) s = run k t := by
  rw [run_succ, h, andThen_next]

/-- A block that a step leaves as it is stays so for ever. -/
theorem run_of_step_self {s : State} (h : step s = .next s) (k : Nat) : run k s = .next s := by
  induction k with
  | zero => rfl
  | succ k ih => rw [run_of_step h, ih]

theorem step_busSilent {s : State} (hr : s.resetLine = false) (hb : BusSilent s) : step s = .next s := by
  obtain ⟨hp, hw⟩ | ⟨hp, hra⟩ := hb
  · rw [step_write hr hp, onWrite_silent hw]
  · rw [step_read hr hp, onRead_silent hra]

/-- Settles O21: each step leaves the block as it is, and a busy block of the invariant holds the lock. -/
theorem silentBusHangsTheBlock : Obligations.SilentBusHangsTheBlock := by
  intro s k hi hr hb
  have hbusy : s.phase ≠ .idle := by obtain ⟨hp, -⟩ | ⟨hp, -⟩ := hb <;> simp [hp]
  refine ⟨run_of_step_self (step_busSilent hr hb) k, ?_, fun hended => hbusy hended.1⟩
  rw [blockInv_busLock hi, (busy_iff s).2 hbusy]

/-! ## An operation as a whole -/

section
variable {s : State} {op : Operation} {p : Plan} {ws : List WriteAnswer}

/-- Where the write succeeds and no read is due, one step returns `Ok_NoValue` (R134). -/
theorem run_withoutRead (hr : s.resetLine = false) (hp : s.phase = .write) (ho : InProgress op p s)
    (hb : s.busReq = some (.write p.addr p.bytes)) (hw : s.writeAnswers = .ok :: ws) (hn : p.replyLength = 0) :
    run 1 s = .next (returnedState .okNoValue [.write p.addr p.bytes .ok] { s with writeAnswers := ws }) :=
  run_of_step ((step_write hr hp).trans (onWrite_ok_last ho hb hw hn))

/-- Where the write succeeds and a read is due, three steps return the read's result (R135 to R138). -/
theorem run_withRead {r : DeviceRead} {rs : List DeviceRead} (hr : s.resetLine = false) (hp : s.phase = .write)
    (ho : InProgress op p s) (hb : s.busReq = some (.write p.addr p.bytes)) (hw : s.writeAnswers = .ok :: ws)
    (hn : p.replyLength ≠ 0) (hra : s.readAnswers = r :: rs) :
    run 3 s = .next (returnedState (resultOfRead (r.answer p.replyLength))
      [.write p.addr p.bytes .ok, .settleElapsed (settleDuration p.interval s.bus.number s.draws),
        .read p.addr p.replyLength (r.answer p.replyLength)]
      { s with writeAnswers := ws, readAnswers := rs, draws := s.draws + 1 }) := by
  refine (run_of_step ((step_write hr hp).trans (onWrite_ok_settle ho hb hw hn))).trans ?_
  refine Eq.trans (run_of_step (Eq.trans (step_settle hr rfl)
    (onSettle_inProgress ⟨ho.plan, ho.latches, ho.lock, ho.result⟩ rfl))) ?_
  refine Eq.trans (run_of_step (Eq.trans (step_read hr rfl) (onRead_answered rfl hra))) ?_
  simp [run_zero, returnedState]

/-- From its outstanding write on, an operation of either kind runs as its one piece of pseudocode (R140, R171): it returns the
whole's result, having recorded the whole's events and taken the answers they name. -/
theorem run_wholeSteps {w : WriteAnswer} {r : DeviceRead} {rs : List DeviceRead} (hr : s.resetLine = false)
    (hp : s.phase = .write) (ho : InProgress op p s) (hb : s.busReq = some (.write p.addr p.bytes))
    (hw : s.writeAnswers = w :: ws) (hra : w = .ok → p.replyLength ≠ 0 → s.readAnswers = r :: rs) :
    ∃ es ms draws, p.interval ≤ ms ∧
      wholeEvents p w ms (r.answer p.replyLength) = es ++ [.ret (wholeResult p w (r.answer p.replyLength))] ∧
      run (wholeSteps p w) s = .next (returnedState (wholeResult p w (r.answer p.replyLength)) es
        { s with
          writeAnswers := ws
          readAnswers := if w = .ok ∧ p.replyLength ≠ 0 then rs else s.readAnswers
          draws := draws }) := by
  cases w with
  | fail e =>
    exact ⟨_, p.interval, s.draws, le_rfl, rfl, run_of_step ((step_write hr hp).trans (onWrite_fail hb hw))⟩
  | ok =>
    by_cases hn : p.replyLength = 0
    · refine ⟨[.write p.addr p.bytes .ok], p.interval, s.draws, le_rfl,
        by simp only [wholeEvents, if_pos hn]; rfl, ?_⟩
      rw [if_neg fun h => h.2 hn]
      simpa only [wholeSteps, wholeResult, if_pos hn] using run_withoutRead hr hp ho hb hw hn
    · refine ⟨[.write p.addr p.bytes .ok, .settleElapsed (settleDuration p.interval s.bus.number s.draws),
          .read p.addr p.replyLength (r.answer p.replyLength)], _, s.draws + 1,
        settleDuration_ge p.interval s.bus.number s.draws, by simp only [wholeEvents, if_neg hn]; rfl, ?_⟩
      rw [if_pos ⟨rfl, hn⟩]
      simpa only [wholeSteps, wholeResult, if_neg hn] using run_withRead hr hp ho hb hw hn (hra rfl hn)

end

theorem portByte_eq_zero_iff {v : Nat} (h : v < 256) : portByte v = 0 ↔ v = 0 := by
  rw [BitVec.toNat_eq, portByte_toNat h]
  rfl

/-- Settles O35: acceptance leaves the write outstanding, and `run_wholeSteps` is the rest. -/
theorem sendCommandRunsAsItsPseudocode : Obligations.SendCommandRunsAsItsPseudocode := by
  refine ⟨fun s dest opcode ap vp rlen w ws r rs hp hr hwf hw hra => ?_, by decide⟩
  obtain ⟨-, hrlen⟩ : _ ∧ rlen < 256 := by simpa [Instr.wellFormed] using hwf
  intro d o a v n p
  have hn : p.replyLength ≠ 0 ↔ rlen ≠ 0 := (portByte_eq_zero_iff hrlen).not
  obtain ⟨es, ms, draws, hms, hes, hrun⟩ :=
    run_wholeSteps (s := acceptedState (.send d o a v n) p s) (op := .send d o a v n) (p := p) (r := r) (rs := rs)
      hr rfl ⟨rfl, rfl, rfl, rfl⟩ rfl hw fun hok hne => hra hok (hn.1 hne)
  refine ⟨_, _, ms, exec_idle hwf hp, hms, hrun, rfl, rfl, rfl, rfl, rfl, rfl, rfl, rfl, ?_, ?_⟩
  · exact if_congr (and_congr_right' hn) rfl rfl
  · rw [hes, ← List.append_assoc]
    rfl

end Sys2Proof.Proofs
end

section
/-! SUPPORT. What the range check of a `send_command` says when its destination and its row's constants fit their ports, and
the obligations of the catalog family (spec 42_opcode_catalog.md). -/

namespace Sys2Proof.Proofs

open Sys2Proof.Machine Sys2Proof.Safety

/-! ## Acceptance -/

/-- Settles O15: an idle block takes each command as the `send_command` of `operationOf`, which leaves `acceptedState`. -/
theorem catalogCommandsWriteTheirFrames : Obligations.CatalogCommandsWriteTheirFrames := by
  intro s display language adh adl hp hdisplay hlanguage hadh hadl
  have hwf : (Instr.readEeprom adh adl).wellFormed = true := by simp [Instr.wellFormed, byteValues, hadh, hadl]
  exact ⟨exec_idle (decide_eq_true hdisplay) hp, exec_idle rfl hp, exec_idle (decide_eq_true hlanguage) hp,
    exec_idle rfl hp, exec_idle hwf hp⟩

/-! ## The binding of a row -/

/-- A destination that is an address and a row's own opcode and reply length are never what the range check stops at. -/
theorem firstInvalid_sendCommand {row : CatalogRow} (ho : row.opcode < byteValues) (hn : row.replyLength < byteValues)
    (d : Addr) (a v : Nat) :
    firstInvalid (portOperands (.sendCommand d.toNat row.opcode a v row.replyLength)) =
      firstInvalid [(a, byteValues), (v, byteValues)] := by
  have hd : d.toNat < addrValues := d.isLt
  simp [portOperands, firstInvalid, hd, ho, hn]

theorem portAddr_toNat (d : Addr) : portAddr d.toNat = d := BitVec.ofNat_toNat ..

/-- The `send_command` a row binds is the row's command behind the range check of its two parameters (R95, R151). -/
theorem exec_sendCommand_row {row : CatalogRow} (ho : row.opcode < byteValues) (hn : row.replyLength < byteValues)
    (a v : Nat) (s : State) :
    exec (.sendCommand s.ddcAddr.toNat row.opcode (bindParam row.addrParam a) (bindParam row.valueParam v)
        row.replyLength) s =
      hostLayer [(bindParam row.addrParam a, byteValues), (bindParam row.valueParam v, byteValues)] s
        (catalogCommand row a v s) := by
  rw [exec, execSendCommand, hostLayer, firstInvalid_sendCommand ho hn, portAddr_toNat]
  rfl

/-- Settles O16: each command is its row's behind the range check of its own operands, and a constant of the row passes
that check. -/
theorem catalogCommandsAreDirectBindings : Obligations.CatalogCommandsAreDirectBindings := by
  intro s display language adh adl
  refine ⟨Eq.symm ?_, Eq.symm ?_, Eq.symm ?_, Eq.symm ?_, Eq.symm ?_⟩
  · exact exec_sendCommand_row (row := rowInputSelect) (by decide) (by decide) 0 display s
  · exact exec_sendCommand_row (row := rowSystemReset) (by decide) (by decide) 0 0 s
  · exact exec_sendCommand_row (row := rowSelectLanguage) (by decide) (by decide) 0 language s
  · exact exec_sendCommand_row (row := rowGetModelStr) (by decide) (by decide) 0 0 s
  · exact exec_sendCommand_row (row := rowReadEeprom) (by decide) (by decide) adh adl s

/-! ## `select_language` as a whole -/

theorem inProgress_acceptedState {op : Operation} {p : Plan} (h : planOf op = some p) (s : State) :
    InProgress op p (acceptedState op p s) :=
  ⟨h, rfl, rfl, rfl⟩

/-- Where the write fails, one step returns `BusWriteFailed` (R133). -/
theorem run_failedWrite {s : State} {a : Addr} {bs : List Byte} {e : IoError} {ws : List WriteAnswer}
    (hr : s.resetLine = false) (hp : s.phase = .write) (hb : s.busReq = some (.write a bs))
    (hw : s.writeAnswers = .fail e :: ws) :
    run 1 s = .next (returnedState (.err .busWriteFailed e) [.write a bs (.fail e)] { s with writeAnswers := ws }) :=
  run_of_step ((step_write hr hp).trans (onWrite_fail hb hw))

/-- An operation that returns after its write has recorded its acceptance, the write and the return, and no read. -/
theorem read_mem_history_of_returnAfterWrite {op : Operation} {p : Plan} {r : Result} {w : WriteAnswer}
    {ws : List WriteAnswer} {s : State} (a : Addr) (n : Byte) (ans : ReadAnswer n)
    (h : .read a n ans ∈
      (returnedState r [.write p.addr p.bytes w] { acceptedState op p s with writeAnswers := ws }).history) :
    .read a n ans ∈ s.history := by
  simpa [returnedState, acceptedState] using h

/-- Settles O37: acceptance leaves a write outstanding after which no read is due (the row's reply length is 0), so the write's
answer, whichever it is, ends the operation. -/
theorem selectLanguageNeverReads : Obligations.SelectLanguageNeverReads := by
  intro s language w ws hp hr hlanguage hw
  obtain ⟨p, hplan, hn⟩ : ∃ p, planOf (operationOf s.ddcAddr (.selectLanguage language)) = some p ∧ p.replyLength = 0 :=
    ⟨_, rfl, rfl⟩
  have hexec := exec_idle (i := .selectLanguage language) (decide_eq_true hlanguage) hp
  rw [takenState_of_plan hplan] at hexec
  cases w with
  | ok =>
    exact ⟨_, _, hexec, run_withoutRead hr rfl (inProgress_acceptedState hplan s) rfl hw hn, rfl, rfl,
      fun _ => rfl, nofun, nofun, read_mem_history_of_returnAfterWrite⟩
  | fail e =>
    exact ⟨_, _, hexec, run_failedWrite hr rfl rfl hw, rfl, rfl,
      nofun, fun _ he => by cases he; rfl, nofun, read_mem_history_of_returnAfterWrite⟩

/-! ## The checksum bytes -/

/-- Settles O17: in each row the closed form's constant for `0x37` takes in the row's own bytes. -/
theorem catalogChecksumsForTheDefaultAddress : Obligations.CatalogChecksumsForTheDefaultAddress := by
  have hclosed (o a v : Byte) : checksum 0x37 o a v = 0xB9 ^^^ o ^^^ a ^^^ v := (checksumHasItsClosedForm.2 0x37 o a v).2
  have hinput : (0xB9 ^^^ 0xF4 ^^^ 0x00 : Byte) = 0x4D := by decide
  have hlanguage : (0xB9 ^^^ 0x68 ^^^ 0x00 : Byte) = 0xD1 := by decide
  have heeprom : (0xB9 ^^^ 0xE7 : Byte) = 0x5E := by decide
  refine ⟨fun display => ?_, by decide, fun language => ?_, by decide, fun adh adl => ?_⟩
  · rw [hclosed, hinput]
  · rw [hclosed, hlanguage]
  · rw [hclosed, heeprom]

end Sys2Proof.Proofs
end

section
/-! SUPPORT. That `read_edid` is the one operation in progress with `KIND` `EDID` and has its accesses, that an operation which
reads returns no `Ok_NoValue`, and the obligations of the EDID reader's family (spec 43_edid_reader.md). -/

namespace Sys2Proof.Proofs

open Sys2Proof.Machine Sys2Proof.Safety

/-- Settles O18, by `exec_idle`: `read_edid` is accepted as itself, whatever `DDC_ADDR` is. -/
theorem readEdidWritesThePointer : Obligations.ReadEdidWritesThePointer :=
  fun _ hp => exec_idle rfl hp

/-! ## The steps after acceptance -/

/-- `KIND` alone tells that the operation in progress is `read_edid`, whose accesses are constants (R171, R172). -/
theorem inProgress_edid {s : State} {op : Operation} {p : Plan} (h : InProgress op p s)
    (hk : s.latches.kind = some .edid) : p = ⟨0x50, [0x00], 150, 130⟩ := by
  have hpl := h.plan
  rw [h.latches] at hk
  cases op with
  | build => cases hpl
  | send => cases hk
  | edid => cases hpl; rfl

/-- Settles O30: in each phase the invariant's plan is `read_edid`'s, and the phase's law says what the step does with it. -/
theorem edidReaderWaitsThenReads130Bytes : Obligations.EdidReaderWaitsThenReads130Bytes := by
  intro s hi hr hk
  refine ⟨fun rest hp hw => ?_, fun hp => ?_, fun r rest bytes hp hra hans => ?_⟩
  · obtain ⟨op, p, ho, hb, -⟩ := blockInv_write hi hp
    obtain rfl := inProgress_edid ho hk
    exact ⟨hb, (step_write hr hp).trans (onWrite_ok_settle ho hb hw (by decide))⟩
  · obtain ⟨op, p, ho, -, -, ht⟩ := blockInv_settle hi hp
    obtain rfl := inProgress_edid ho hk
    exact ⟨_, settleDuration_ge 150 s.bus.number s.draws, (step_settle hr hp).trans (onSettle_inProgress ho ht)⟩
  · obtain ⟨op, p, ho, -, hb, -⟩ := blockInv_read hi hp
    obtain rfl := inProgress_edid ho hk
    rw [step_read hr hp, onRead_answered hb hra, hans]
    rfl

/-! ## `read_edid` as a whole -/

/-- An operation that reads returns no `Ok_NoValue`: an error or the read's bytes (R134, R174). -/
theorem wholeResult_ne_okNoValue {p : Plan} (hn : p.replyLength ≠ 0) (w : WriteAnswer) (ans : ReadAnswer p.replyLength) :
    wholeResult p w ans ≠ .okNoValue := by
  cases w with
  | fail e => nofun
  | ok =>
    rw [wholeResult, if_neg hn]
    cases ans <;> nofun

/-- Settles O36: acceptance leaves the pointer write outstanding, and `run_wholeSteps` is the rest; a read is always due. -/
theorem readEdidRunsAsItsPseudocode : Obligations.ReadEdidRunsAsItsPseudocode := by
  intro s w ws r rs hp hr hw hra p
  have hn : p.replyLength ≠ 0 := by decide
  obtain ⟨es, ms, draws, hms, hes, hrun⟩ :=
    run_wholeSteps (s := acceptedState .edid p s) (r := r) (rs := rs) hr rfl (inProgress_acceptedState rfl s) rfl hw
      fun hok _ => hra hok
  refine ⟨_, _, ms, exec_idle rfl hp, hms, hrun, rfl, rfl, wholeResult_ne_okNoValue hn w _, rfl, rfl, rfl, rfl, rfl, rfl,
    ?_, ?_⟩
  · exact if_congr (and_iff_left hn) rfl rfl
  · rw [hes, ← List.append_assoc]
    rfl

end Sys2Proof.Proofs
end

section
/-! SUPPORT. What a return leaves, as one state, and the obligations of the exceptions family (spec 60_exceptions.md). -/

namespace Sys2Proof.Proofs

open Sys2Proof.Machine

/-! ## Taking an error -/

/-- Every way of returning, an error's among them, leaves the same idle block (R37, R186). -/
theorem returnWith_eq (r : Result) (s : State) :
    returnWith r s = { s with
      result := some r, busLock := false, phase := .idle
      latches := .empty, timer := none, busReq := none
      history := s.history ++ [.ret r] } := rfl

/-- Settles O33, by `returnWith_eq`: raising an error is returning it. -/
theorem raisedErrorEndsTheOperation : Obligations.RaisedErrorEndsTheOperation :=
  fun s k e => returnWith_eq (.err k e) s

/-! ## Outcome codes -/

/-- An error's code is its kind's, whatever the bus reported. -/
theorem result_code_err (k : TransportKind) (e : IoError) : (Result.err k e).code = k.errorKind.code := rfl

/-- Settles O34: a success has code 0 whatever it carries, and `result_code_err` leaves an error to the table of kinds. -/
theorem outcomeCodesAreThoseOfTheTable : Obligations.OutcomeCodesAreThoseOfTheTable :=
  ⟨rfl, fun _ => rfl, result_code_err .busWriteFailed, result_code_err .busReadFailed, rfl⟩

end Sys2Proof.Proofs
end

section
/-! SUPPORT. What a reset, a return and a program's end leave, and the obligations of the family of resets and hazards (spec
70_reset_and_hazards.md). -/

namespace Sys2Proof.Proofs

open Sys2Proof.Machine Sys2Proof.Safety

/-! ## Hardware reset -/

/-- A hardware reset keeps `DDC_ADDR` and `BUS`, what lies outside the block, and the history; the rest is the reset state (R37,
R211 (c)). -/
theorem hardReset_eq (s : State) :
    s.hardReset = { State.resetWith s.ddcAddr s.bus with
      host := s.host, writeAnswers := s.writeAnswers, readAnswers := s.readAnswers, draws := s.draws
      history := s.history ++ [.hardReset] } := rfl

/-- Settles O44: the step is the reset, whatever the phase, and `hardReset_eq` is what that leaves. -/
theorem hardwareResetForcesTheResetState : Obligations.HardwareResetForcesTheResetState := by
  intro s hr
  rw [step_reset hr, hardReset_eq]

/-! ## The end of a program -/

/-- The return of a bus operation ends it, shows its outcome and is the last event (R29, R225). -/
theorem ended_returnedState (r : Result) (es : List Event) (s : State) :
    Ended (returnedState r es s) ∧
      ∃ r', (returnedState r es s).result = some r' ∧ (returnedState r es s).history.getLast? = some (.ret r') :=
  ⟨⟨rfl, rfl⟩, r, rfl, List.getLast?_concat⟩

/-- The return of a `build_frame` is the last event. -/
theorem getLast?_history_builtState (d : Addr) (opc ap vp : Byte) (s : State) :
    (builtState d opc ap vp s).history.getLast? = some (.built (frameBytes d opc ap vp)) := by
  simp [builtState]

/-- An ended program is idle and presents nothing, so the block waits. -/
theorem step_programEnded {s : State} (he : ProgramEnded s) (hr : s.resetLine = false) : step s = .next s := by
  obtain ⟨hp, hh, -⟩ := he
  rw [step_idle hr hp, onIdle_nothing hh]

/-- Settles O49: of the moves, those that leave the block busy reach no end; of those that leave it idle, a bus operation's
return took nothing from the host, and the other two took the one operation there was. -/
theorem programEndsWithItsLastReturn : Obligations.ProgramEndsWithItsLastReturn := by
  refine ⟨fun s ⟨hp, hh, _⟩ => ⟨by simp [State.busy, hp], hh⟩, fun s t _ hr h hne he => ?_,
    fun s he hr => run_of_step_self (step_programEnded he hr)⟩
  have ⟨hidle, hhost, _⟩ := he
  cases step_move h with
  | reset h' => simp [hr] at h'
  | wait => exact absurd he hne
  | refuseOperand hp hh v =>
    obtain rfl := hhost
    exact .inr (.inr ⟨hp, ⟨_, hh⟩, v, rfl, List.getLast?_concat⟩)
  | build hp hh d o a v =>
    obtain rfl := hhost
    exact .inr (.inl ⟨hp, ⟨_, hh⟩, _, rfl, getLast?_history_builtState d o a v _⟩)
  | accept => cases hidle
  | returnAfterWrite hp => exact .inl ⟨by simp [hp], hhost, ended_returnedState _ _ _⟩
  | settle => cases hidle
  | issueRead => cases hidle
  | returnAfterRead hp => exact .inl ⟨by simp [hp], hhost, ended_returnedState _ _ _⟩

end Sys2Proof.Proofs
end
